-- ==== Sys2Proof/Word.lean ====
section
/-! DEFINITION. The words of the block: bytes, 64-bit registers, and the fixed tuples of words that the
generator state, the staging registers and the snapshot registers are made of. Bit 0 is the least
significant bit of every word (spec/00_scope.md R10). -/

namespace Sys2Proof

/-- One byte: a character of the expression buffer, the immediate of `PUTC` (R40, R72). -/
abbrev Byte := BitVec 8

/-- One host-visible register (R27). -/
abbrev Reg := BitVec 64

/-- Two words of one width: the state of a xoroshiro generator (R20, R21). -/
structure Pair (w : Nat) where
  x0 : BitVec w
  x1 : BitVec w
  deriving DecidableEq, Repr

/-- Four words of one width: the state of a xoshiro generator (R20, R21), and with `w = 64` the register
groups `SIN0..SIN3` and `SOUT0..SOUT3` (R37, R38). -/
structure Quad (w : Nat) where
  x0 : BitVec w
  x1 : BitVec w
  x2 : BitVec w
  x3 : BitVec w
  deriving DecidableEq, Repr

/-- Word `i` of a quadruple. -/
def Quad.get {w : Nat} (q : Quad w) (i : Fin 4) : BitVec w :=
  match i with
  | 0 => q.x0
  | 1 => q.x1
  | 2 => q.x2
  | 3 => q.x3

/-- A quadruple with word `i` replaced. -/
def Quad.set {w : Nat} (q : Quad w) (i : Fin 4) (v : BitVec w) : Quad w :=
  match i with
  | 0 => { q with x0 := v }
  | 1 => { q with x1 := v }
  | 2 => { q with x2 := v }
  | 3 => { q with x3 := v }

/-- The all-zero tuples: the words of the degenerate state (R22). -/
def Pair.zero (w : Nat) : Pair w := ⟨0, 0⟩

def Quad.zero (w : Nat) : Quad w := ⟨0, 0, 0, 0⟩

end Sys2Proof
end

