-- ==== Sys2Proof/Config.lean ====
section
/-! DEFINITION. What one instance of the block fixes for its whole life (spec/00_scope.md R6, R42): the
variant, the warm-up count, and the record `Params` of the parameters that are arguments of the machine.
The values this hardware takes for them stand in Machine/Params.lean. -/

namespace Sys2Proof

/-- The scrambler tags of the recurrences that have three of them: both xoshiro widths and 64-bit
xoroshiro (R21). -/
inductive Scrambler3 where
  | plusPlus
  | starStar
  | plus
  deriving DecidableEq, Repr

/-- The scrambler tags of 32-bit xoroshiro (R21). -/
inductive Scrambler2 where
  | starStar
  | star
  deriving DecidableEq, Repr

/-- The eleven algorithm variants, in the order of their `VSEL` codes 0 to 10 (R21). -/
inductive Variant where
  | x256pp
  | x256ss
  | x256p
  | x128pp
  | x128ss
  | x128p
  | xr128pp
  | xr128ss
  | xr128p
  | xr64ss
  | xr64s
  deriving DecidableEq, Repr

/-- `WARMUP`, the number of outputs discarded after seeding: 1 or 2, left open by the spec (R7, D9). -/
inductive Warmup where
  | one
  | two
  deriving DecidableEq, Repr

/-- `BYTE_ORDER`, the order in which a byte-serial consumer emits an output word (R6, R54). -/
inductive ByteOrder where
  | little
  | big
  deriving DecidableEq, Repr

/-- One row of `CONST` (R138, R139). A dash of the table, a constant the variant does not use, is held
as 0 and never read. -/
structure Consts where
  /-- rotation of a PlusPlus output -/
  rp : Nat := 0
  /-- first multiplier of a StarStar output; the multiplier of Star -/
  m1 : Nat := 0
  /-- rotation of a StarStar output -/
  ro : Nat := 0
  /-- second multiplier of a StarStar output -/
  m2 : Nat := 0
  /-- left shift of the xoshiro update -/
  sh : Nat := 0
  /-- rotation of `s3` in the xoshiro update -/
  rs : Nat := 0
  /-- rotation of `s0` in the xoroshiro update -/
  a : Nat := 0
  /-- left shift of `s1` in the xoroshiro update -/
  b : Nat := 0
  /-- rotation of `s1` in the xoroshiro update -/
  c : Nat := 0
  deriving DecidableEq, Repr

/-- `CONST`: a row for each variant (R139). -/
abbrev ConstTable := Variant → Consts

/-- The parameters that are arguments of the step function and fixed when the block is built (R6, R8, R42,
R251). The other two, `VSEL` and `WARMUP`, differ from instance to instance and stand in State; `W`, `N`
and the row of `CONST` follow from `VSEL` (R21). Parameters are no state: no command reads or writes this
record (log 15). -/
structure Params where
  /-- `CONST` (R139) -/
  const : ConstTable
  /-- `EXPAND`, total on 64-bit words (R171) -/
  expand : Reg → Reg
  /-- `DRAW`, of an output word and a number of sides (R201) -/
  draw : Nat → Nat → Nat
  /-- `EXPR_MAX`, the capacity of the expression buffer in bytes, 1 to 255 -/
  exprMax : Nat
  /-- `BYTE_ORDER` (R54) -/
  byteOrder : ByteOrder

/-- DESIGN CHOICE, unsafe (log 3): the strap of the instance that `State.reset` is. The spec leaves the
variant to the instance (R6, R251); no statement rests on this value. -/
def Config.resetVariant : Variant := .x256pp

/-- DESIGN CHOICE, unsafe (log 4): the warm-up count of the instance that `State.reset` is. The spec
leaves it open (R7); no statement rests on this value. -/
def Config.resetWarmup : Warmup := .one

end Sys2Proof
end

