-- ==== Sys2Proof/Machine/State.lean ====
section
/-! DEFINITION. The state of one instance of the block (spec/10_state.md R41), the host events that act
on it, the reasons a step may stop, and the state after reset (R43, R250). -/

namespace Sys2Proof.Machine

/-- The Generator Engine: the variant tag and exactly `N` words of `W` bits (R20, R21). The shape is
the constructor, so no cell that the variant does not have is held. -/
inductive Engine where
  /-- xoshiro, `W = 64`, `N = 4` -/
  | xoshiro64 (tag : Scrambler3) (s : Quad 64)
  /-- xoshiro, `W = 32`, `N = 4` -/
  | xoshiro32 (tag : Scrambler3) (s : Quad 32)
  /-- xoroshiro, `W = 64`, `N = 2` -/
  | xoroshiro64 (tag : Scrambler3) (s : Pair 64)
  /-- xoroshiro, `W = 32`, `N = 2` -/
  | xoroshiro32 (tag : Scrambler2) (s : Pair 32)
  deriving DecidableEq, Repr

/-- The uninitialised engine of a variant: all words 0 (R43, R102). -/
def Engine.zero (v : Variant) : Engine :=
  match v with
  | .x256pp => .xoshiro64 .plusPlus (Quad.zero 64)
  | .x256ss => .xoshiro64 .starStar (Quad.zero 64)
  | .x256p => .xoshiro64 .plus (Quad.zero 64)
  | .x128pp => .xoshiro32 .plusPlus (Quad.zero 32)
  | .x128ss => .xoshiro32 .starStar (Quad.zero 32)
  | .x128p => .xoshiro32 .plus (Quad.zero 32)
  | .xr128pp => .xoroshiro64 .plusPlus (Pair.zero 64)
  | .xr128ss => .xoroshiro64 .starStar (Pair.zero 64)
  | .xr128p => .xoroshiro64 .plus (Pair.zero 64)
  | .xr64ss => .xoroshiro32 .starStar (Pair.zero 32)
  | .xr64s => .xoroshiro32 .star (Pair.zero 32)

/-- The expression buffer `EXPR` (R40, R50): its bytes by position, in one canonical form. -/
abbrev Memory := List Host.Cell

/-- What a position nothing has written reads as. The spec leaves it unspecified and unreachable (R43,
U13); DESIGN CHOICE 0, unsafe (log 5); no statement rests on it. -/
def exprUnlisted : Byte := 0

/-- The canonical form: positions strictly rising, no entry equal to what an unlisted position reads
as. -/
abbrev Memory.wf (m : Memory) : Prop :=
  m.Pairwise (fun c d => c.1 < d.1) ∧ ∀ c ∈ m, c.2 ≠ exprUnlisted

/-- The seven error conditions of the block (R33, R220). -/
inductive ErrCode where
  | noSep
  | count
  | sides
  | range
  | dice
  | full
  | ill
  deriving DecidableEq, Repr

/-- What reaches the block from outside: the host's register accesses (R28), the same accesses as a
platform's byte-addressed bus carries them (R52, R55), and the platform's reset (R250, R272). -/
inductive HostEvent where
  /-- `RegWrite(idx, v)` -/
  | write (idx : BitVec 6) (v : Reg)
  /-- `RegRead(idx)` -/
  | read (idx : BitVec 6)
  /-- a bus write of `size` bytes at a byte offset from the block's base -/
  | busWrite (offset size : Nat) (v : Reg)
  /-- a bus read of `size` bytes at a byte offset from the block's base -/
  | busRead (offset size : Nat)
  /-- the platform's reset, with the value of the strap `VSEL` at that moment -/
  | reset (vsel : BitVec 4)
  deriving DecidableEq, Repr

/-- The complete state of one instance (R41), and the two fields that are the model's own (log 1). -/
structure State where
  /-- `S`, with the variant `VSEL` latched at reset (R20, R21, R251) -/
  engine : Engine
  /-- `WARMUP`, a parameter no step changes (R6, R7) -/
  warmup : Warmup
  /-- `STATUS.INIT` (R31) -/
  init : Bool
  /-- `STATUS.DVALID` (R39) -/
  dvalid : Bool
  /-- `STATUS.ERR` (R33) -/
  err : Bool
  /-- `STATUS.ECODE` (R33) -/
  ecode : BitVec 4
  /-- `ARG0` (R34) -/
  arg0 : Reg
  /-- `ARG1` (R34) -/
  arg1 : Reg
  /-- `RES` (R35) -/
  res : Reg
  /-- `SIN0..SIN3` (R37) -/
  sin : Quad 64
  /-- `SOUT0..SOUT3` (R38) -/
  sout : Quad 64
  /-- `COUNT`, two's complement (R39) -/
  count : BitVec 32
  /-- `SIDES`, two's complement (R39) -/
  sides : BitVec 32
  /-- `MOD`, two's complement (R39) -/
  modifier : BitVec 32
  /-- `EXLEN`, unsigned (R40) -/
  exlen : BitVec 8
  /-- `EXPR` (R40) -/
  expr : Memory
  /-- the model's own: the host events still to be performed, the next one first (R26, R270) -/
  host : List HostEvent
  /-- the model's own: the values this run's reads have returned, oldest first (R270) -/
  reads : List Reg
  deriving DecidableEq, Repr

/-- Reasons for a machine fault: none. The block has no trap and never halts; every error is reported
in `STATUS` and the block goes on (R221, R224, R225). Nothing raises a fault (log 9). -/
inductive Fault where
  deriving DecidableEq, Repr

/-- Reasons a step gives no next state. None of them is reached by a command. -/
inductive Refusal where
  /-- an instruction of the opcode table that has no meaning yet: raised by `exec` only; safe -/
  | notModelled (mnemonic : String)
  /-- a reset with a strap value 11..15, which selects no variant (R21, U9): raised by the step on a
  `reset` event; safe (log 7) -/
  | illegalStrap (vsel : BitVec 4)
  /-- a bus access that is not one aligned 64-bit access inside the block's 512 bytes (R52, R55, U17):
  raised by the step on a `busWrite` or `busRead` event; safe (log 8) -/
  | notARegisterAccess (offset size : Nat)
  deriving DecidableEq, Repr

/-- The state after reset (R43, R250) of an instance with the given strap and warm-up count, nothing
pending from the host. -/
def State.resetFor (v : Variant) (wu : Warmup) : State where
  engine := Engine.zero v
  warmup := wu
  init := false
  dvalid := false
  err := false
  ecode := 0
  arg0 := 0
  arg1 := 0
  res := 0
  sin := Quad.zero 64
  sout := Quad.zero 64
  count := 0
  sides := 0
  modifier := 0
  exlen := 0
  expr := []
  host := []
  reads := []

/-- The machine right after reset (R43, R250). The strap and the warm-up count are the instance's;
the values here are DESIGN CHOICE (logs 3, 4). -/
def State.reset : State := State.resetFor Config.resetVariant Config.resetWarmup

end Sys2Proof.Machine
end

