-- ==== Sys2Proof/Machine/Parser.lean ====
section
/-! DEFINITION. The dice expression parser `PARSEFN` (spec/43_dice_sampler.md R181, R186, R187). It works
on the string as a list of bytes: the position `p` of R187 is the rest of the list. -/

namespace Sys2Proof.Machine

/-- `isdigit`: the ASCII digits (R181). -/
def isDigit (b : Byte) : Bool := decide (0x30 ≤ b.toNat) && decide (b.toNat ≤ 0x39)

/-- `isspace`: space, tab, line feed, vertical tab, form feed, carriage return (R181). -/
def isSpace (b : Byte) : Bool :=
  b == 0x20#8 || b == 0x09#8 || b == 0x0A#8 || b == 0x0B#8 || b == 0x0C#8 || b == 0x0D#8

/-- `issep`: lower-case `d` (R181). -/
def isSep (b : Byte) : Bool := b == 0x64#8

/-- The sign characters `+` and `-` (R181). -/
def isSign (b : Byte) : Bool := b == 0x2B#8 || b == 0x2D#8

/-- `digitval` (R181). -/
def digitVal (b : Byte) : Nat := b.toNat - 0x30

/-- `DEC`: the natural number a run of digits denotes, most significant first, no wrap-around (R186). -/
def decimal (ds : List Byte) : Nat := ds.foldl (fun n b => 10 * n + digitVal b) 0

/-- The greatest literal, `2^31 - 1` (R186). -/
def literalMax : Nat := 2147483647

/-- A parsed dice expression: count, sides, and the modifier with its sign (R187). -/
structure DiceExpr where
  count : Nat
  sides : Nat
  modifier : Int
  deriving DecidableEq, Repr

/-- The optional group `(\s*[+-]\s*\d+)?` at the start of what follows `Sides`: whether the sign is `-`,
and the literal's value; none when the group takes no part in the match (R187, R188). -/
def modifierGroup (rest : List Byte) : Option (Bool × Nat) :=
  match rest.dropWhile isSpace with
  | [] => none
  | sign :: after =>
    if isSign sign then
      let digits := (after.dropWhile isSpace).takeWhile isDigit
      if digits.isEmpty then none else some (sign == 0x2D#8, decimal digits)
    else none

/-- The range checks, made after the syntax has succeeded, and the sign (R187, R189). -/
def rangeCheck (c d : Nat) (group : Option (Bool × Nat)) : Except ErrCode DiceExpr :=
  match group with
  | none => if c > literalMax ∨ d > literalMax then .error .range else .ok ⟨c, d, 0⟩
  | some (neg, m) =>
    if c > literalMax ∨ d > literalMax ∨ m > literalMax then .error .range
    else .ok ⟨c, d, if neg then -(m : Int) else m⟩

/-- `PARSEFN` (R187): the prefix match of the grammar, the first failure of the left-to-right scan as
the error (R188, R189). -/
def parseFn (e : List Byte) : Except ErrCode DiceExpr :=
  let e := e.dropWhile isSpace
  let countRun := e.takeWhile isDigit
  if countRun.isEmpty then .error .count
  else
    match e.dropWhile isDigit with
    | [] => .error .noSep
    | b :: e =>
      if isSep b then
        let sidesRun := e.takeWhile isDigit
        if sidesRun.isEmpty then .error .sides
        else
          rangeCheck (decimal countRun) (decimal sidesRun) (modifierGroup (e.dropWhile isDigit))
      else .error .noSep

end Sys2Proof.Machine
end

