-- ==== Sys2Proof/Machine/Params.lean ====
section
/-! DEFINITION. The values this hardware takes for the parameters of the model (spec/00_scope.md R6):
`VSEL` and what follows from it (spec/10_state.md R21), `WARMUP` as a number, `CONST`
(spec/41_engine_next.md R139), `EXPAND` (spec/42_seed_expander.md R171), `DRAW`
(spec/43_dice_sampler.md R202), `EXPR_MAX`, `BYTE_ORDER`; `hardware` is their record. -/

namespace Sys2Proof.Machine

/-- `VSEL`, the code of a variant (R21). -/
def vselCode (v : Variant) : BitVec 4 :=
  match v with
  | .x256pp => 0
  | .x256ss => 1
  | .x256p => 2
  | .x128pp => 3
  | .x128ss => 4
  | .x128p => 5
  | .xr128pp => 6
  | .xr128ss => 7
  | .xr128p => 8
  | .xr64ss => 9
  | .xr64s => 10

/-- The variant a strap value selects; 11 to 15 select none (R21, R251). -/
def strapVariant (vsel : BitVec 4) : Option Variant :=
  match vsel.toNat with
  | 0 => some .x256pp
  | 1 => some .x256ss
  | 2 => some .x256p
  | 3 => some .x128pp
  | 4 => some .x128ss
  | 5 => some .x128p
  | 6 => some .xr128pp
  | 7 => some .xr128ss
  | 8 => some .xr128p
  | 9 => some .xr64ss
  | 10 => some .xr64s
  | _ => none

/-- `W`, the word width of a variant (R21). -/
def wordWidth (v : Variant) : Nat :=
  match v with
  | .x256pp | .x256ss | .x256p | .xr128pp | .xr128ss | .xr128p => 64
  | .x128pp | .x128ss | .x128p | .xr64ss | .xr64s => 32

/-- `N`, the number of state words of a variant (R21). -/
def wordCount (v : Variant) : Nat :=
  match v with
  | .x256pp | .x256ss | .x256p | .x128pp | .x128ss | .x128p => 4
  | .xr128pp | .xr128ss | .xr128p | .xr64ss | .xr64s => 2

/-- The variant of an engine: its recurrence and width are the shape of its state, its scrambler the
tag (R21). -/
def Engine.variant (e : Engine) : Variant :=
  match e with
  | .xoshiro64 .plusPlus _ => .x256pp
  | .xoshiro64 .starStar _ => .x256ss
  | .xoshiro64 .plus _ => .x256p
  | .xoshiro32 .plusPlus _ => .x128pp
  | .xoshiro32 .starStar _ => .x128ss
  | .xoshiro32 .plus _ => .x128p
  | .xoroshiro64 .plusPlus _ => .xr128pp
  | .xoroshiro64 .starStar _ => .xr128ss
  | .xoroshiro64 .plus _ => .xr128p
  | .xoroshiro32 .starStar _ => .xr64ss
  | .xoroshiro32 .star _ => .xr64s

/-- `WARMUP` as a number (R7). -/
def warmupCount (wu : Warmup) : Nat :=
  match wu with
  | .one => 1
  | .two => 2

/-- `CONST`, the constants of this hardware (R139). The values that the table marks with a dagger are
the spec's own, from general knowledge: UNVERIFIED, unsafe (log 10). -/
def constTable : ConstTable := fun v =>
  match v with
  | .x256pp => { rp := 23, sh := 17, rs := 45 }
  | .x256ss => { m1 := 5, ro := 7, m2 := 9, sh := 17, rs := 45 }
  | .x256p => { sh := 17, rs := 45 }
  | .x128pp => { rp := 7, sh := 9, rs := 11 }
  | .x128ss => { m1 := 5, ro := 7, m2 := 9, sh := 9, rs := 11 }
  | .x128p => { sh := 9, rs := 11 }
  | .xr128pp => { rp := 17, a := 49, b := 21, c := 28 }
  | .xr128ss => { m1 := 5, ro := 7, m2 := 9, a := 24, b := 16, c := 37 }
  | .xr128p => { a := 24, b := 16, c := 37 }
  | .xr64ss => { m1 := 5, ro := 7, m2 := 9, a := 26, b := 9, c := 13 }
  | .xr64s => { m1 := 0x9E3779BB, a := 26, b := 9, c := 13 }

/-- The other instance of `CONST` that the spec names: the published triple `(0x9E3779BB, 5, 5)` for
`XR64SS` (R139 note, R147; spec/90_conflicts.md C6). Not this hardware's. -/
def publishedConstTable : ConstTable := fun v =>
  match v with
  | .xr64ss => { m1 := 0x9E3779BB, ro := 5, m2 := 5, a := 26, b := 9, c := 13 }
  | .x256pp | .x256ss | .x256p | .x128pp | .x128ss | .x128p
  | .xr128pp | .xr128ss | .xr128p | .xr64s => constTable v

/-- `EXPAND` of this hardware (R171). Its five numbers and its five steps are the spec's own, from
general knowledge: UNVERIFIED, unsafe (log 10). -/
def expand (x : Reg) : Reg :=
  let z := x + 0x9E3779B97F4A7C15
  let z := (z ^^^ (z >>> 30)) * 0xBF58476D1CE4E5B9
  let z := (z ^^^ (z >>> 27)) * 0x94D049BB133111EB
  z ^^^ (z >>> 31)

/-- The one word that the `EXPAND` of this hardware maps to 0: `2^64 - 0x9E3779B97F4A7C15` (R172 (b)). -/
def expandZeroPreimage : Reg := 0x61C8864680B583EB

/-- The default `DRAW` of this hardware: `1 + (w mod sides)` on naturals (R202). The algorithm is the
spec's own: UNVERIFIED, unsafe for concrete results (log 11). -/
def draw (w sides : Nat) : Nat := 1 + w % sides

/-- `EXPR_MAX`, the capacity of the expression buffer: 64 for this hardware (R6, R36). -/
def exprMax : Nat := 64

/-- `BYTE_ORDER` of this hardware: little-endian (R6, R54). -/
def byteOrder : ByteOrder := .little

/-- The parameters at the values this hardware takes (R6, R8). `exec` and `step` are the machine at this
record; `execWith` and `stepWith` are the machine at any (log 15). -/
def hardware : Params where
  const := constTable
  expand := expand
  draw := draw
  exprMax := exprMax
  byteOrder := byteOrder

end Sys2Proof.Machine
end

