-- ==== Sys2Proof/Machine/Flags.lean ====
section
/-! DEFINITION. The fields of `STATUS` and how they are computed and written (spec/10_state.md R30 to
R33), and the read-only view `ID` (R36). -/

namespace Sys2Proof.Machine

/-- The number in `ECODE` of an error condition (R33). -/
def ErrCode.code (c : ErrCode) : BitVec 4 :=
  match c with
  | .noSep => 1
  | .count => 2
  | .sides => 3
  | .range => 4
  | .dice => 5
  | .full => 6
  | .ill => 7

/-- Every word of `S` is 0 (R22, R32). -/
def Engine.isZero (e : Engine) : Bool :=
  match e with
  | .xoshiro64 _ s => s == Quad.zero 64
  | .xoshiro32 _ s => s == Quad.zero 32
  | .xoroshiro64 _ s => s == Pair.zero 64
  | .xoroshiro32 _ s => s == Pair.zero 32

/-- `STATUS.ZERO`: a function of `S`, not a stored bit (R32). -/
def State.zeroFlag (s : State) : Bool := s.engine.isZero

/-- `STATUS` as it is read: `ECODE`, `ERR`, `DVALID`, `ZERO`, `INIT` from bit 7 down to bit 0, zeros
above (R30). -/
def State.statusWord (s : State) : Reg :=
  0#56 ++ s.ecode ++ BitVec.ofBool s.err ++ BitVec.ofBool s.dvalid ++ BitVec.ofBool s.zeroFlag
    ++ BitVec.ofBool s.init

/-- `ID` as it is read: `EXPR_MAX` in 31:24, `WARMUP` in 17:16, `W` in 15:8, `N` in 7:4, `VSEL` in
3:0, zeros elsewhere (R36). -/
def State.idWord (P : Params) (s : State) : Reg :=
  0#32 ++ BitVec.ofNat 8 P.exprMax ++ 0#6 ++ BitVec.ofNat 2 (warmupCount s.warmup)
    ++ BitVec.ofNat 8 (wordWidth s.engine.variant) ++ BitVec.ofNat 4 (wordCount s.engine.variant)
    ++ vselCode s.engine.variant

/-- `ERR <- 0, ECODE <- 0`: what a command that ends without error writes (R33, R100). -/
def State.clearError (s : State) : State := { s with err := false, ecode := 0 }

/-- `ERR <- 1, ECODE <- code`: what a command that ends with an error writes (R33, R221). -/
def State.setError (s : State) (c : ErrCode) : State := { s with err := true, ecode := c.code }

/-- `INIT <- b` (R31). -/
def State.setInit (s : State) (b : Bool) : State := { s with init := b }

end Sys2Proof.Machine
end

