-- ==== Sys2Proof/Machine/Ops.lean ====
section
/-! DEFINITION. The shared operations: the expression buffer's bytes, the writes of each group of
registers, and the two ways a command ends: `done` and `raise` (spec/60_exceptions.md R221). Raising an
error is the block's whole exception mechanism: nothing is saved, no control is transferred, and there
is no return from it (R221, R225). -/

namespace Sys2Proof.Machine

/-- One byte of `EXPR`. -/
def Memory.read (m : Memory) (p : Nat) : Byte :=
  match m with
  | [] => exprUnlisted
  | (q, b) :: rest => if q = p then b else Memory.read rest p

/-- `EXPR[p] <- b`, keeping the canonical form. -/
def Memory.write (m : Memory) (p : Nat) (b : Byte) : Memory :=
  match m with
  | [] => if b = exprUnlisted then [] else [(p, b)]
  | (q, c) :: rest =>
    if p < q then (if b = exprUnlisted then (q, c) :: rest else (p, b) :: (q, c) :: rest)
    else if p = q then (if b = exprUnlisted then rest else (p, b) :: rest)
    else (q, c) :: Memory.write rest p b

/-- `S <- e` (R23). -/
def State.setEngine (s : State) (e : Engine) : State := { s with engine := e }

/-- `RES <- v` (R35). -/
def State.setRes (s : State) (v : Reg) : State := { s with res := v }

/-- `ARG0 <- v`, `ARG1 <- v`: host writes only (R34). -/
def State.setArg0 (s : State) (v : Reg) : State := { s with arg0 := v }

def State.setArg1 (s : State) (v : Reg) : State := { s with arg1 := v }

/-- `SINi <- v`: host writes only (R37). -/
def State.setSin (s : State) (i : Fin 4) (v : Reg) : State := { s with sin := s.sin.set i v }

/-- `SOUT0..SOUT3 <- q`: `RDST` only (R38). -/
def State.setSout (s : State) (q : Quad 64) : State := { s with sout := q }

/-- `COUNT`, `SIDES`, `MOD` and `DVALID`, which are written together (R39). -/
def State.setTriple (s : State) (c d m : BitVec 32) (valid : Bool) : State :=
  { s with count := c, sides := d, modifier := m, dvalid := valid }

/-- `EXLEN <- n` (R40). -/
def State.setExlen (s : State) (n : BitVec 8) : State := { s with exlen := n }

/-- `EXPR[p] <- b` (R40). -/
def State.putByte (s : State) (p : Nat) (b : Byte) : State :=
  { s with expr := Memory.write s.expr p b }

/-- One byte of `EXPR` (R40). -/
def State.byteAt (s : State) (p : Nat) : Byte := Memory.read s.expr p

/-- The model's own: the host events still to be performed (log 1). -/
def State.setHost (s : State) (h : List HostEvent) : State := { s with host := h }

/-- The model's own: a read has returned `v` (log 1). -/
def State.pushRead (s : State) (v : Reg) : State := { s with reads := s.reads ++ [v] }

/-- A command ends without error (R33, R100). -/
def done (s : State) : Host.Outcome State Fault Refusal := .next s.clearError

/-- `raise <Error>(code)`: the command ends with `ERR` and `ECODE` written and nothing else (R221). -/
def raise (c : ErrCode) (s : State) : Host.Outcome State Fault Refusal := .next (s.setError c)

end Sys2Proof.Machine
end

