-- ==== Sys2Proof/Machine/Operands.lean ====
section
/-! DEFINITION. Operands: the register map (spec/10_state.md R27, R28), the registers each command reads
(spec/30_encoding.md R73), and the conversions between state words and 64-bit registers (R24, R105,
R110, R113). -/

namespace Sys2Proof.Machine

/-- The registers of the map, reserved indices as one (R27). -/
inductive RegName where
  | cmd
  | status
  | arg0
  | arg1
  | res
  | id
  | sin (i : Fin 4)
  | sout (i : Fin 4)
  | dcount
  | dsides
  | dmod
  | exlen
  | reserved
  deriving DecidableEq, Repr

/-- The register at an index (R27). -/
def regAt (idx : BitVec 6) : RegName :=
  match idx.toNat with
  | 0x00 => .cmd
  | 0x01 => .status
  | 0x02 => .arg0
  | 0x03 => .arg1
  | 0x04 => .res
  | 0x05 => .id
  | 0x08 => .sin 0
  | 0x09 => .sin 1
  | 0x0A => .sin 2
  | 0x0B => .sin 3
  | 0x0C => .sout 0
  | 0x0D => .sout 1
  | 0x0E => .sout 2
  | 0x0F => .sout 3
  | 0x10 => .dcount
  | 0x11 => .dsides
  | 0x12 => .dmod
  | 0x13 => .exlen
  | _ => .reserved

/-- `RegRead(idx)`: the value of the register at an index; `CMD` and reserved indices read 0; nothing
changes (R28, R57). -/
def State.regRead (P : Params) (s : State) (idx : BitVec 6) : Reg :=
  match regAt idx with
  | .cmd => 0
  | .status => s.statusWord
  | .arg0 => s.arg0
  | .arg1 => s.arg1
  | .res => s.res
  | .id => s.idWord P
  | .sin i => s.sin.get i
  | .sout i => s.sout.get i
  | .dcount => s.count.signExtend 64
  | .dsides => s.sides.signExtend 64
  | .dmod => s.modifier.signExtend 64
  | .exlen => s.exlen.setWidth 64
  | .reserved => 0

/-- Register `idx` stands at byte offset `8 * idx`, and an access is one aligned 64-bit access inside
the block's 512 bytes or none of the block's (R52, R55). -/
def busRegister (offset size : Nat) : Option (BitVec 6) :=
  if size = 8 ∧ offset % 8 = 0 ∧ offset < 512 then some (BitVec.ofNat 6 (offset / 8)) else none

/-- The engine with `S[i] <- q_i[W-1:0]` for every `i < N`; bits above `W` and words beyond `N` are
ignored (R105, R110, R111). -/
def Engine.load (e : Engine) (q : Quad 64) : Engine :=
  match e with
  | .xoshiro64 t _ => .xoshiro64 t q
  | .xoshiro32 t _ =>
    .xoshiro32 t ⟨q.x0.setWidth 32, q.x1.setWidth 32, q.x2.setWidth 32, q.x3.setWidth 32⟩
  | .xoroshiro64 t _ => .xoroshiro64 t ⟨q.x0, q.x1⟩
  | .xoroshiro32 t _ => .xoroshiro32 t ⟨q.x0.setWidth 32, q.x1.setWidth 32⟩

/-- `zext_64(S[i])` for `i < N`, 0 for `N <= i < 4` (R113). -/
def Engine.words (e : Engine) : Quad 64 :=
  match e with
  | .xoshiro64 _ s => s
  | .xoshiro32 _ s => ⟨s.x0.setWidth 64, s.x1.setWidth 64, s.x2.setWidth 64, s.x3.setWidth 64⟩
  | .xoroshiro64 _ s => ⟨s.x0, s.x1, 0, 0⟩
  | .xoroshiro32 _ s => ⟨s.x0.setWidth 64, s.x1.setWidth 64, 0, 0⟩

/-- `zext_64(2^W - 1)`: the largest output word (R154). -/
def Engine.maxWord (e : Engine) : Reg :=
  match e with
  | .xoshiro64 _ _ | .xoroshiro64 _ _ => BitVec.allOnes 64
  | .xoshiro32 _ _ | .xoroshiro32 _ _ => (BitVec.allOnes 32).setWidth 64

/-- The current source string `EXPR[0..EXLEN-1]`, which `PARSE` reads (R40, R190). -/
def State.source (s : State) : List Byte := (List.range s.exlen.toNat).map s.byteAt

/-- `LDDX`'s operands: `count`, `sides`, `modifier` (R34, R198). -/
def State.lddxCount (s : State) : BitVec 32 := s.arg0.extractLsb' 0 32

def State.lddxSides (s : State) : BitVec 32 := s.arg0.extractLsb' 32 32

def State.lddxModifier (s : State) : BitVec 32 := s.arg1.extractLsb' 0 32

/-- The bytes of an output word of `W` bits in the order a byte-serial consumer of `RES` emits them:
`W/8` bytes, none above bit `W-1` (R54). The export is the host's, outside the block (log 14). -/
def rawExport (order : ByteOrder) (w : Nat) (res : Reg) : List Byte :=
  let little := (List.range (w / 8)).map fun k => res.extractLsb' (8 * k) 8
  match order with
  | .little => little
  | .big => little.reverse

end Sys2Proof.Machine
end

