-- ==== Sys2Proof/Machine/Transition.lean ====
section
/-! DEFINITION. Word arithmetic and the transition `NEXTFN` (spec/41_engine_next.md R131 to R149).
Addition, multiplication and exclusive or are those of bit vectors, modulo `2^W` (R131 to R133). Every
function takes its constants as arguments; `nextFn` takes the table `CONST` (R8, R140). -/

namespace Sys2Proof.Machine

/-- `rotl_W(x, k)`, for `0 < k < W` (R136). -/
def rotl {w : Nat} (x : BitVec w) (k : Nat) : BitVec w := (x <<< k) ||| (x >>> (w - k))

/-- The xoshiro update, statement by statement (R141). -/
def xoshiroUpdate {w : Nat} (sh rs : Nat) (s : Quad w) : Quad w :=
  let t := s.x1 <<< sh
  let s2 := s.x2 ^^^ s.x0
  let s3 := s.x3 ^^^ s.x1
  let s1 := s.x1 ^^^ s2
  let s0 := s.x0 ^^^ s3
  let s2 := s2 ^^^ t
  let s3 := rotl s3 rs
  ⟨s0, s1, s2, s3⟩

/-- The xoroshiro update (R142). -/
def xoroshiroUpdate {w : Nat} (a b c : Nat) (s : Pair w) : Pair w :=
  let x := s.x1 ^^^ s.x0
  ⟨rotl s.x0 a ^^^ x ^^^ (x <<< b), rotl x c⟩

/-- Output of xoshiro PlusPlus (R143). -/
def xoshiroPlusPlus {w : Nat} (rp : Nat) (s : Quad w) : BitVec w :=
  rotl (s.x0 + s.x3) rp + s.x0

/-- Output of xoshiro StarStar: it reads `s1` only (R144). -/
def xoshiroStarStar {w : Nat} (m1 ro m2 : Nat) (s : Quad w) : BitVec w :=
  rotl (s.x1 * BitVec.ofNat w m1) ro * BitVec.ofNat w m2

/-- Output of xoshiro Plus (R145). -/
def xoshiroPlus {w : Nat} (s : Quad w) : BitVec w := s.x0 + s.x3

/-- Output of xoroshiro PlusPlus (R146). -/
def xoroshiroPlusPlus {w : Nat} (rp : Nat) (s : Pair w) : BitVec w :=
  rotl (s.x0 + s.x1) rp + s.x0

/-- Output of xoroshiro StarStar: it reads `s0` only (R147). -/
def xoroshiroStarStar {w : Nat} (m1 ro m2 : Nat) (s : Pair w) : BitVec w :=
  rotl (s.x0 * BitVec.ofNat w m1) ro * BitVec.ofNat w m2

/-- Output of xoroshiro Plus (R148). -/
def xoroshiroPlus {w : Nat} (s : Pair w) : BitVec w := s.x0 + s.x1

/-- Output of xoroshiro Star: it reads `s0` only (R149). -/
def xoroshiroStar {w : Nat} (m1 : Nat) (s : Pair w) : BitVec w := s.x0 * BitVec.ofNat w m1

/-- `SCRAMBLE_v(S)`, zero-extended to 64 bits (R140, R143 to R149). -/
def Engine.scramble (K : ConstTable) (e : Engine) : Reg :=
  let k := K e.variant
  match e with
  | .xoshiro64 .plusPlus s => xoshiroPlusPlus k.rp s
  | .xoshiro64 .starStar s => xoshiroStarStar k.m1 k.ro k.m2 s
  | .xoshiro64 .plus s => xoshiroPlus s
  | .xoshiro32 .plusPlus s => (xoshiroPlusPlus k.rp s).setWidth 64
  | .xoshiro32 .starStar s => (xoshiroStarStar k.m1 k.ro k.m2 s).setWidth 64
  | .xoshiro32 .plus s => (xoshiroPlus s).setWidth 64
  | .xoroshiro64 .plusPlus s => xoroshiroPlusPlus k.rp s
  | .xoroshiro64 .starStar s => xoroshiroStarStar k.m1 k.ro k.m2 s
  | .xoroshiro64 .plus s => xoroshiroPlus s
  | .xoroshiro32 .starStar s => (xoroshiroStarStar k.m1 k.ro k.m2 s).setWidth 64
  | .xoroshiro32 .star s => (xoroshiroStar k.m1 s).setWidth 64

/-- `UPDATE_v(S)` (R140 to R142). -/
def Engine.update (K : ConstTable) (e : Engine) : Engine :=
  let k := K e.variant
  match e with
  | .xoshiro64 t s => .xoshiro64 t (xoshiroUpdate k.sh k.rs s)
  | .xoshiro32 t s => .xoshiro32 t (xoshiroUpdate k.sh k.rs s)
  | .xoroshiro64 t s => .xoroshiro64 t (xoroshiroUpdate k.a k.b k.c s)
  | .xoroshiro32 t s => .xoroshiro32 t (xoroshiroUpdate k.a k.b k.c s)

/-- `NEXTFN(v, S)`: the output word and the next state, both from the state on entry (R140). -/
def nextFn (K : ConstTable) (e : Engine) : Reg × Engine := (e.scramble K, e.update K)

/-- `n` transitions, their outputs dropped (R106). -/
def Engine.advance (K : ConstTable) : Nat → Engine → Engine
  | 0, e => e
  | n + 1, e => Engine.advance K n (nextFn K e).2

end Sys2Proof.Machine
end

