-- ==== Sys2Proof/Machine/Sampler.lean ====
section
/-! DEFINITION. The sampler's arithmetic (spec/43_dice_sampler.md R201, R204 to R206, R208, R209).
`DRAW` is an argument of the roll (R201). -/

namespace Sys2Proof.Machine

/-- The loop of `SAMPLE`: one transition and one draw for each die, added to the accumulator in 64-bit
two's complement (R205). -/
def rollDice (K : ConstTable) (dr : Nat → Nat → Nat) (sides : Nat) :
    Nat → Engine → Reg → Reg × Engine
  | 0, e, acc => (acc, e)
  | n + 1, e, acc =>
    let r := nextFn K e
    rollDice K dr sides n r.2 (acc + BitVec.ofNat 64 (dr r.1.toNat sides))

/-- A triple that `SAMPLE` accepts: valid, `COUNT >= 1`, `SIDES >= 1` as signed integers (R205). -/
def State.diceReady (s : State) : Bool :=
  s.dvalid && decide (1 ≤ s.count.toInt) && decide (1 ≤ s.sides.toInt)

end Sys2Proof.Machine
end

