-- ==== Sys2Proof/Machine/Dice.lean ====
section
/-! DEFINITION. The dice commands (spec/43_dice_sampler.md): `XCLR`, `PUTC`, `PARSE`, `LDDX`, `SAMPLE`,
`DMIN`, `DMAX`. `PUTC` and `SAMPLE` are written over the parameters and taken at `hardware` (R8, R42). -/

namespace Sys2Proof.Machine

/-- `XCLR` (R183): a new source string; the bytes stay, unreachable. -/
def execXclr (s : State) : Host.Outcome State Fault Refusal := done (s.setExlen 0)

/-- `PUTC imm8` (R184): append one byte, or `E_FULL` with the buffer unchanged. -/
def putcWith (P : Params) (imm8 : Byte) (s : State) : Host.Outcome State Fault Refusal :=
  if s.exlen.toNat = P.exprMax then raise .full s
  else done ((s.putByte s.exlen.toNat imm8).setExlen (s.exlen + 1))

/-- `PUTC` of this hardware. -/
def execPutc (imm8 : Byte) (s : State) : Host.Outcome State Fault Refusal :=
  putcWith hardware imm8 s

/-- `PARSE` (R190, R191): the triple of the source string, or a cleared triple and the error. This is
the one command whose error path changes more than `ERR` and `ECODE`. -/
def execParse (s : State) : Host.Outcome State Fault Refusal :=
  match parseFn s.source with
  | .ok d =>
    done (s.setTriple (BitVec.ofNat 32 d.count) (BitVec.ofNat 32 d.sides)
      (BitVec.ofInt 32 d.modifier) true)
  | .error c => raise c (s.setTriple 0 0 0 false)

/-- `LDDX` (R198): the triple from the operand registers; no value is refused. -/
def execLddx (s : State) : Host.Outcome State Fault Refusal :=
  done (s.setTriple s.lddxCount s.lddxSides s.lddxModifier true)

/-- `SAMPLE` (R205): `COUNT` transitions, the sum of the draws plus `MOD` to `RES`; or `E_DICE` before
the first transition. -/
def sampleWith (P : Params) (s : State) : Host.Outcome State Fault Refusal :=
  if s.diceReady then
    let r := rollDice P.const P.draw s.sides.toNat s.count.toNat s.engine 0
    done ((s.setEngine r.2).setRes (r.1 + s.modifier.signExtend 64))
  else raise .dice s

/-- `SAMPLE` of this hardware. -/
def execSample (s : State) : Host.Outcome State Fault Refusal := sampleWith hardware s

/-- `DMIN` (R208, R210): `COUNT + MOD`; only `DVALID` is checked. -/
def execDmin (s : State) : Host.Outcome State Fault Refusal :=
  if s.dvalid then done (s.setRes (s.count.signExtend 64 + s.modifier.signExtend 64))
  else raise .dice s

/-- `DMAX` (R209, R210): `COUNT * SIDES + MOD`; only `DVALID` is checked. -/
def execDmax (s : State) : Host.Outcome State Fault Refusal :=
  if s.dvalid then
    done (s.setRes (s.count.signExtend 64 * s.sides.signExtend 64 + s.modifier.signExtend 64))
  else raise .dice s

end Sys2Proof.Machine
end

