-- ==== Sys2Proof/Machine/Expander.lean ====
section
/-! DEFINITION. How seeding iterates the seed expander (spec/42_seed_expander.md R173;
spec/40_engine_state_ops.md R104 to R108), and the properties of `EXPAND` that other rules use
(spec/42_seed_expander.md R172). `EXPAND` is an argument of both (R8, R171). -/

namespace Sys2Proof.Machine

/-- R172 (a): a bijection of the 64-bit words. -/
def ExpandBijective (f : Reg → Reg) : Prop :=
  (∀ x y, f x = f y → x = y) ∧ ∀ y, ∃ x, f x = y

/-- R172 (b): `z` is mapped to 0 and no other word is. -/
def ExpandZeroAt (f : Reg → Reg) (z : Reg) : Prop := ∀ x, f x = 0 ↔ x = z

/-- R172 (c): two successive iterates are never both 0. What replaces `EXPAND` must establish it anew where
a claim relies on it. -/
def ExpandNeverZeroTwice (f : Reg → Reg) : Prop := ∀ x, ¬(f x = 0 ∧ f (f x) = 0)

/-- The chain of one seed: each full 64-bit output is the next input (R105, R173). -/
def seedChain (f : Reg → Reg) (seed : Reg) : Quad 64 :=
  let x0 := f seed
  let x1 := f x0
  let x2 := f x1
  let x3 := f x2
  ⟨x0, x1, x2, x3⟩

/-- Two interleaved chains: even slots from `seed1`, odd slots from `seed2` (R107, R108). -/
def seedChains (f : Reg → Reg) (seed1 seed2 : Reg) : Quad 64 :=
  let a0 := f seed1
  let b0 := f seed2
  let a1 := f a0
  let b1 := f b0
  ⟨a0, b0, a1, b1⟩

/-- A seeded engine: the words taken low `W` bits each, then `WARMUP` transitions (R104, R106, R107). -/
def Engine.seeded (K : ConstTable) (wu : Warmup) (words : Quad 64) (e : Engine) : Engine :=
  Engine.advance K (warmupCount wu) (e.load words)

end Sys2Proof.Machine
end

