-- ==== Sys2Proof/Machine/EngineNext.lean ====
section
/-! DEFINITION. The commands that give a word (spec/41_engine_next.md R150, R153, R154;
spec/42_seed_expander.md R174): `NEXT`, `GMIN`, `GMAX`, `XPND`, the first and the last over the
parameters and at `hardware` (R8, R42). -/

namespace Sys2Proof.Machine

/-- `NEXT` (R150): one transition; the output word, zero-extended, to `RES`. -/
def nextWith (P : Params) (s : State) : Host.Outcome State Fault Refusal :=
  let r := nextFn P.const s.engine
  done ((s.setEngine r.2).setRes r.1)

/-- `NEXT` of this hardware. -/
def execNext (s : State) : Host.Outcome State Fault Refusal := nextWith hardware s

/-- `GMIN` (R153): the smallest word `NEXT` can return. -/
def execGmin (s : State) : Host.Outcome State Fault Refusal := done (s.setRes 0)

/-- `GMAX` (R154): the largest word `NEXT` can return. -/
def execGmax (s : State) : Host.Outcome State Fault Refusal := done (s.setRes s.engine.maxWord)

/-- `XPND` (R174): the expander applied once to `ARG0`. -/
def xpndWith (P : Params) (s : State) : Host.Outcome State Fault Refusal :=
  done (s.setRes (P.expand s.arg0))

/-- `XPND` of this hardware. -/
def execXpnd (s : State) : Host.Outcome State Fault Refusal := xpndWith hardware s

end Sys2Proof.Machine
end

