-- ==== Sys2Proof/Machine/EngineState.lean ====
section
/-! DEFINITION. The engine state commands (spec/40_engine_state_ops.md): `NOP`, `CLR`, `SEED1`, `SEED2`,
`LDST`, `RDST`. A meaning that depends on a parameter is written over the parameters, `seed1With`, and taken at
`hardware`, `execSeed1` (R8, R42). -/

namespace Sys2Proof.Machine

/-- `NOP` (R101): nothing at all; `ERR` and `ECODE` stay. -/
def execNop (s : State) : Host.Outcome State Fault Refusal := .next s

/-- `CLR` (R102): the uninitialised engine. -/
def execClr (s : State) : Host.Outcome State Fault Refusal :=
  done ((s.setEngine (Engine.zero s.engine.variant)).setInit false)

/-- `SEED1` (R104 to R106): the state from the chain of `ARG0`, then the warm-up. -/
def seed1With (P : Params) (s : State) : Host.Outcome State Fault Refusal :=
  done ((s.setEngine
    (s.engine.seeded P.const s.warmup (seedChain P.expand s.arg0))).setInit true)

/-- `SEED1` of this hardware. -/
def execSeed1 (s : State) : Host.Outcome State Fault Refusal := seed1With hardware s

/-- `SEED2` (R107, R108): the state from the two chains of `ARG0` and `ARG1`, then the warm-up. -/
def seed2With (P : Params) (s : State) : Host.Outcome State Fault Refusal :=
  done ((s.setEngine
    (s.engine.seeded P.const s.warmup (seedChains P.expand s.arg0 s.arg1))).setInit true)

/-- `SEED2` of this hardware. -/
def execSeed2 (s : State) : Host.Outcome State Fault Refusal := seed2With hardware s

/-- `LDST` (R110, R111): the state from the staged words, all at once; no expansion, no warm-up. -/
def execLdst (s : State) : Host.Outcome State Fault Refusal :=
  done ((s.setEngine (s.engine.load s.sin)).setInit true)

/-- `RDST` (R113): the snapshot of the state; the engine is unaffected. -/
def execRdst (s : State) : Host.Outcome State Fault Refusal :=
  done (s.setSout s.engine.words)

end Sys2Proof.Machine
end

