-- ==== Sys2Proof/Syntax.lean ====
section
/-! DEFINITION. The commands of the block, one constructor for each row of spec/opcode_table.json
(spec/30_encoding.md R74). Every operand but `PUTC`'s byte is implicit (R73). -/

namespace Sys2Proof

/-- The seventeen commands (R74). -/
inductive Instr where
  | nop
  | clr
  | seed1
  | seed2
  | ldst
  | rdst
  | next
  | gmin
  | gmax
  | xpnd
  | xclr
  | putc (imm8 : Byte)
  | parse
  | lddx
  | sample
  | dmin
  | dmax
  deriving DecidableEq, Repr

end Sys2Proof
end

