-- ==== Sys2Proof/Machine/Dispatch.lean ====
section
/-! DEFINITION. The effect of each command: one arm per constructor of `Instr` (spec/30_encoding.md R74). -/

namespace Sys2Proof.Machine

def exec (i : Instr) (s : State) : Host.Outcome State Fault Refusal :=
  match i with
  | .nop => Sys2Proof.Machine.execNop s
  | .clr => Sys2Proof.Machine.execClr s
  | .seed1 => Sys2Proof.Machine.execSeed1 s
  | .seed2 => Sys2Proof.Machine.execSeed2 s
  | .ldst => Sys2Proof.Machine.execLdst s
  | .rdst => Sys2Proof.Machine.execRdst s
  | .next => Sys2Proof.Machine.execNext s
  | .gmin => Sys2Proof.Machine.execGmin s
  | .gmax => Sys2Proof.Machine.execGmax s
  | .xpnd => Sys2Proof.Machine.execXpnd s
  | .xclr => Sys2Proof.Machine.execXclr s
  | .putc imm8 => Sys2Proof.Machine.execPutc imm8 s
  | .parse => Sys2Proof.Machine.execParse s
  | .lddx => Sys2Proof.Machine.execLddx s
  | .sample => Sys2Proof.Machine.execSample s
  | .dmin => Sys2Proof.Machine.execDmin s
  | .dmax => Sys2Proof.Machine.execDmax s

end Sys2Proof.Machine
end

