-- ==== Sys2Proof/Decode.lean ====
section
/-! DEFINITION. Decoding and encoding of the 64-bit value written to `CMD` (spec/30_encoding.md R70,
R71, R74, R82). The decoder is total and reads no state; it rejects by name. -/

namespace Sys2Proof

/-- Why a value is illegal, in the order in which R71 looks. All four mean `E_ILL` (R82). -/
inductive Illegal where
  /-- bits 63:32 are not all 0 -/
  | highBits
  /-- `rsv`, bits 31:16, is not 0 -/
  | reservedBits
  /-- `op` is not in the table of R74 -/
  | opcode
  /-- `imm8` is not 0 on a command other than `PUTC` -/
  | immediate
  deriving DecidableEq, Repr

/-- The `op` field, bits 7:0 (R70). -/
def opField (v : Reg) : Byte := v.extractLsb' 0 8

/-- The `imm8` field, bits 15:8, unsigned (R70, R72). -/
def immField (v : Reg) : Byte := v.extractLsb' 8 8

/-- The `rsv` field, bits 31:16 (R70). -/
def rsvField (v : Reg) : BitVec 16 := v.extractLsb' 16 16

/-- The bits of a write to `CMD` above the command word (R29, R71). -/
def aboveWord (v : Reg) : BitVec 32 := v.extractLsb' 32 32

/-- The row of R74 that an opcode selects, with the immediate `PUTC` takes. -/
def opcodeRow (op : Byte) (imm8 : Byte) : Option Instr :=
  match op.toNat with
  | 0x00 => some .nop
  | 0x01 => some .clr
  | 0x02 => some .seed1
  | 0x03 => some .seed2
  | 0x04 => some .ldst
  | 0x05 => some .rdst
  | 0x06 => some .next
  | 0x07 => some .gmin
  | 0x08 => some .gmax
  | 0x09 => some .xpnd
  | 0x10 => some .xclr
  | 0x11 => some (.putc imm8)
  | 0x12 => some .parse
  | 0x13 => some .lddx
  | 0x14 => some .sample
  | 0x15 => some .dmin
  | 0x16 => some .dmax
  | _ => none

/-- R71: the command a value written to `CMD` selects, or why it is illegal. -/
def decode (v : Reg) : Except Illegal Instr :=
  if aboveWord v ≠ 0#32 then .error .highBits
  else if rsvField v ≠ 0#16 then .error .reservedBits
  else
    match opcodeRow (opField v) (immField v) with
    | none => .error .opcode
    | some i =>
      if opField v ≠ 0x11#8 ∧ immField v ≠ 0#8 then .error .immediate else .ok i

/-- The opcode of a command (R74). -/
def opcode (i : Instr) : Byte :=
  match i with
  | .nop => 0x00
  | .clr => 0x01
  | .seed1 => 0x02
  | .seed2 => 0x03
  | .ldst => 0x04
  | .rdst => 0x05
  | .next => 0x06
  | .gmin => 0x07
  | .gmax => 0x08
  | .xpnd => 0x09
  | .xclr => 0x10
  | .putc _ => 0x11
  | .parse => 0x12
  | .lddx => 0x13
  | .sample => 0x14
  | .dmin => 0x15
  | .dmax => 0x16

/-- The immediate of a command: `PUTC`'s byte, 0 for every other (R70). -/
def immediate (i : Instr) : Byte :=
  match i with
  | .putc imm8 => imm8
  | .nop | .clr | .seed1 | .seed2 | .ldst | .rdst | .next | .gmin | .gmax | .xpnd
  | .xclr | .parse | .lddx | .sample | .dmin | .dmax => 0

/-- The 64-bit value a host writes to `CMD` for a command: format C, zeros above bit 15 (R70, R91). -/
def encode (i : Instr) : Reg := 0#48 ++ immediate i ++ opcode i

/-- The table row's instruction whose bits are `w`: one 32-bit word, written as the low half of the
value for `CMD`, every bit above `nbits` 0. -/
def decodeTableWord (nbits w : Nat) : Option Instr :=
  if w % 2 ^ nbits < 2 ^ 64 then
    match decode (BitVec.ofNat 64 (w % 2 ^ nbits)) with
    | .ok i => some i
    | .error _ => none
  else none

end Sys2Proof
end

