-- ==== Sys2Proof/Machine/Port.lean ====
section
/-! DEFINITION. The host port: what one host event does (spec/10_state.md R28, R29; spec/20_memory.md
R52, R55; spec/70_reset_and_hazards.md R250, R251). Each event is one step and complete when it ends
(R14, R60, R261). What a command does is the argument `run`, so that the port serves `exec` and the machine at
any parameters alike (R42, R251). -/

namespace Sys2Proof.Machine

/-- What each command does: `exec`, or `execWith` at some parameters. -/
abbrev Executor := Instr → State → Host.Outcome State Fault Refusal

/-- A write of `v` to `CMD` (R29, R71): the command it selects, or `raise IllegalCommand(E_ILL)`
(R82, R224). -/
def runCommand (run : Executor) (v : Reg) (s : State) : Host.Outcome State Fault Refusal :=
  match decode v with
  | .ok i => run i s
  | .error _ => raise .ill s

/-- `RegWrite(idx, v)` (R28): a read-write register takes the value, `CMD` runs a command, a read-only
or reserved register ignores the write. -/
def regWrite (run : Executor) (idx : BitVec 6) (v : Reg) (s : State) : Host.Outcome State Fault Refusal :=
  match regAt idx with
  | .cmd => runCommand run v s
  | .arg0 => .next (s.setArg0 v)
  | .arg1 => .next (s.setArg1 v)
  | .sin i => .next (s.setSin i v)
  | .status | .res | .id | .sout _ | .dcount | .dsides | .dmod | .exlen | .reserved => .next s

/-- The platform's reset (R250, R251): every piece of the block's state at its reset value, the strap
sampled, `WARMUP` as it was built; what is the host's own stays (log 6). -/
def platformReset (v : Variant) (s : State) : State :=
  { State.resetFor v s.warmup with host := s.host, reads := s.reads }

/-- One host event. -/
def perform (P : Params) (run : Executor) (ev : HostEvent) (s : State) :
    Host.Outcome State Fault Refusal :=
  match ev with
  | .write idx v => regWrite run idx v s
  | .read idx => .next (s.pushRead (s.regRead P idx))
  | .busWrite offset size v =>
    match busRegister offset size with
    | some idx => regWrite run idx v s
    | none => .refused (.notARegisterAccess offset size)
  | .busRead offset size =>
    match busRegister offset size with
    | some idx => .next (s.pushRead (s.regRead P idx))
    | none => .refused (.notARegisterAccess offset size)
  | .reset vsel =>
    match strapVariant vsel with
    | some v => .next (platformReset v s)
    | none => .refused (.illegalStrap vsel)

/-- One step: the host's next event (R26, R270). The block has no program counter and fetches nothing; with
no event pending its state stays as it is (R231, R252; log 2). -/
def stepOn (P : Params) (run : Executor) (s : State) : Host.Outcome State Fault Refusal :=
  match s.host with
  | [] => .next s
  | ev :: rest => perform P run ev (s.setHost rest)

end Sys2Proof.Machine
end

