-- ==== Sys2Proof/Machine/Step.lean ====
section
/-! DEFINITION. One step: the next host event, or nothing when the host issues none
(spec/10_state.md R26; spec/60_exceptions.md R231). -/

namespace Sys2Proof.Machine

/-- One step of this hardware. -/
def step (s : State) : Host.Outcome State Fault Refusal := stepOn hardware exec s

/-- The state with the command word `w` as the next value the host writes to `CMD`: `RegWrite(0x00, w)`
before everything else the host will do. -/
def State.withFetchWord (s : State) (nbits w : Nat) : State :=
  s.setHost (.write 0x00 (BitVec.ofNat 64 (w % 2 ^ nbits)) :: s.host)

end Sys2Proof.Machine
end

