-- ==== Sys2Proof/Machine/Parametric.lean ====
section
/-! DEFINITION. The machine over its parameters (spec/00_scope.md R6, R8; spec/10_state.md R42;
spec/70_reset_and_hazards.md R251): the same meanings and the same port as `exec` and `step`, with `CONST`,
`EXPAND`, `DRAW` and `EXPR_MAX` as arguments. `VSEL` and `WARMUP` are arguments through the state
(`State.resetFor`). -/

namespace Sys2Proof.Machine

/-- What each command does at the parameters `P`. -/
def execWith (P : Params) (i : Instr) (s : State) : Host.Outcome State Fault Refusal :=
  match i with
  | .nop => execNop s
  | .clr => execClr s
  | .seed1 => seed1With P s
  | .seed2 => seed2With P s
  | .ldst => execLdst s
  | .rdst => execRdst s
  | .next => nextWith P s
  | .gmin => execGmin s
  | .gmax => execGmax s
  | .xpnd => xpndWith P s
  | .xclr => execXclr s
  | .putc imm8 => putcWith P imm8 s
  | .parse => execParse s
  | .lddx => execLddx s
  | .sample => sampleWith P s
  | .dmin => execDmin s
  | .dmax => execDmax s

/-- One step at the parameters `P`. -/
def stepWith (P : Params) (s : State) : Host.Outcome State Fault Refusal :=
  stepOn P (execWith P) s

end Sys2Proof.Machine
end

