-- ==== Sys2Proof/WellFormed.lean ====
section
/-! DEFINITION. What is well formed. `Instr` needs no check of its own: its one operand is a byte by
type (R72). The checks here are about what comes from outside: a value written to `CMD`, the strap
sampled at reset, an access on a byte-addressed bus, the values of parameters. The machine does not call
them; obligations compare them with what the decoder and the step accept. -/

namespace Sys2Proof

/-- The opcodes of the seventeen commands (R74). -/
def opcodeAssigned (op : Byte) : Bool :=
  decide (op.toNat ≤ 0x09) || (decide (0x10 ≤ op.toNat) && decide (op.toNat ≤ 0x16))

/-- R82's four conditions, each negated: a legal value for `CMD`. -/
def commandWordOk (v : Reg) : Bool :=
  v.extractLsb' 32 32 == 0#32
    && v.extractLsb' 16 16 == 0#16
    && opcodeAssigned (v.extractLsb' 0 8)
    && (v.extractLsb' 8 8 == 0#8 || v.extractLsb' 0 8 == 0x11#8)

/-- `match` of a command's row of the opcode table (R74). -/
def tableMatch (i : Instr) : BitVec 32 :=
  match i with
  | .nop => 0x00000000
  | .clr => 0x00000001
  | .seed1 => 0x00000002
  | .seed2 => 0x00000003
  | .ldst => 0x00000004
  | .rdst => 0x00000005
  | .next => 0x00000006
  | .gmin => 0x00000007
  | .gmax => 0x00000008
  | .xpnd => 0x00000009
  | .xclr => 0x00000010
  | .putc _ => 0x00000011
  | .parse => 0x00000012
  | .lddx => 0x00000013
  | .sample => 0x00000014
  | .dmin => 0x00000015
  | .dmax => 0x00000016

/-- `mask` of a command's row of the opcode table (R74). -/
def tableMask (i : Instr) : BitVec 32 :=
  match i with
  | .putc _ => 0xFFFF00FF
  | .nop | .clr | .seed1 | .seed2 | .ldst | .rdst | .next | .gmin | .gmax | .xpnd
  | .xclr | .parse | .lddx | .sample | .dmin | .dmax => 0xFFFFFFFF

/-- A strap value that selects a variant: 0 to 10 (R21, U9). -/
def strapOk (vsel : BitVec 4) : Bool := decide (vsel.toNat ≤ 10)

/-- The only access the register space has on a byte-addressed bus: 8 bytes, aligned, inside the
block's 512 bytes (R52, R55). -/
def busAccessOk (offset size : Nat) : Bool :=
  size == 8 && offset % 8 == 0 && decide (offset < 512)

/-- A capacity of the expression buffer that the spec allows: 1 to 255 (R6). -/
def exprMaxOk (n : Nat) : Bool := decide (1 ≤ n) && decide (n ≤ 255)

/-- A rotation or shift amount of the spec: strictly between 0 and the width (R134, R136). -/
def amountOk (w k : Nat) : Bool := decide (0 < k) && decide (k < w)

/-- The amounts of the xoshiro update lie strictly between 0 and the width. -/
def xoshiroAmountsOk (w : Nat) (k : Consts) : Bool := amountOk w k.sh && amountOk w k.rs

/-- The amounts of the xoroshiro update lie strictly between 0 and the width. -/
def xoroshiroAmountsOk (w : Nat) (k : Consts) : Bool :=
  amountOk w k.a && amountOk w k.b && amountOk w k.c

/-- Every shift and rotation amount that the table gives a variant's update is one that R134 and R136
give a meaning to. -/
def constTableOk (K : ConstTable) : Bool :=
  xoshiroAmountsOk 64 (K .x256pp) && xoshiroAmountsOk 64 (K .x256ss)
    && xoshiroAmountsOk 64 (K .x256p) && xoshiroAmountsOk 32 (K .x128pp)
    && xoshiroAmountsOk 32 (K .x128ss) && xoshiroAmountsOk 32 (K .x128p)
    && xoroshiroAmountsOk 64 (K .xr128pp) && xoroshiroAmountsOk 64 (K .xr128ss)
    && xoroshiroAmountsOk 64 (K .xr128p) && xoroshiroAmountsOk 32 (K .xr64ss)
    && xoroshiroAmountsOk 32 (K .xr64s)
    && amountOk 64 (K .x256pp).rp && amountOk 32 (K .x128pp).rp && amountOk 64 (K .xr128pp).rp
    && amountOk 64 (K .x256ss).ro && amountOk 32 (K .x128ss).ro
    && amountOk 64 (K .xr128ss).ro && amountOk 32 (K .xr64ss).ro

end Sys2Proof
end

