-- ==== Sys2Proof/Safety.lean ====
section
/-! DEFINITION. The terms in which claims are made: the invariant of the block, which host events a step
accepts, when outputs mean anything, runs of commands, and the dice grammar as a declarative relation
(spec/43_dice_sampler.md R182, R186, R188), independent of the scan that the parser makes and of its byte classes. -/

namespace Sys2Proof.Machine

/-! ### The invariant -/

/-- The expression buffer: canonical, inside `EXPR_MAX` bytes, `EXLEN` within it (R40). -/
abbrev State.bufferOk (P : Params) (s : State) : Prop :=
  Memory.wf s.expr ∧ (∀ c ∈ s.expr, c.1 < P.exprMax) ∧ s.exlen.toNat ≤ P.exprMax

/-- `ECODE` is 0 exactly when `ERR` is 0, and codes 8 to 15 are never there (R30, R33). -/
abbrev State.errorOk (s : State) : Prop :=
  (s.err = true ↔ s.ecode ≠ 0) ∧ s.ecode.toNat ≤ 7

/-- Without a valid expression the triple is `(0, 0, 0)` (R39, R191). -/
abbrev State.tripleOk (s : State) : Prop :=
  s.dvalid = false → s.count = 0 ∧ s.sides = 0 ∧ s.modifier = 0

/-- An engine to which no state was assigned is all-zero (R31, R103). -/
abbrev State.engineOk (s : State) : Prop := s.init = false → s.zeroFlag = true

/-- A snapshot holds `W`-bit words, and 0 beyond `N` (R38). -/
abbrev State.snapshotOk (s : State) : Prop :=
  ∀ i : Fin 4, (s.sout.get i).toNat < 2 ^ wordWidth s.engine.variant
    ∧ (wordCount s.engine.variant ≤ i.val → s.sout.get i = 0)

/-- The invariant that every step at the parameters `P` keeps. -/
abbrev State.InvWith (P : Params) (s : State) : Prop :=
  s.bufferOk P ∧ s.errorOk ∧ s.tripleOk ∧ s.engineOk ∧ s.snapshotOk

/-- The invariant of this hardware. -/
abbrev State.Inv (s : State) : Prop := s.InvWith hardware

/-! ### Events and runs -/

/-- The events a step accepts: all but a strap that selects no variant and a bus access that is no
access of the block (R55, R251). -/
def eventOk (ev : HostEvent) : Bool :=
  match ev with
  | .write _ _ => true
  | .read _ => true
  | .busWrite offset size _ => busAccessOk offset size
  | .busRead offset size => busAccessOk offset size
  | .reset vsel => strapOk vsel

/-- The platform resets the block with this event. -/
def isReset (ev : HostEvent) : Bool :=
  match ev with
  | .reset _ => true
  | .write _ _ | .read _ | .busWrite _ _ _ | .busRead _ _ => false

/-- The precondition of claims about output quality: a state was assigned and it is not all-zero
(R226). It guards no step. -/
def State.assigned (s : State) : Prop := s.init = true ∧ s.zeroFlag = false

/-- A sequence of commands, stopping at the first that does not give a next state. -/
def execAll (cs : List Instr) (s : State) : Host.Outcome State Fault Refusal :=
  match cs with
  | [] => .next s
  | c :: rest =>
    match exec c s with
    | .next t => execAll rest t
    | .fault f => .fault f
    | .refused r => .refused r

/-- Two states that differ at most in bytes of `EXPR` at positions `>= EXLEN` (R40, R41). -/
def sameButUnreachable (s t : State) : Prop :=
  t = { s with expr := t.expr } ∧ ∀ p, p < s.exlen.toNat → t.byteAt p = s.byteAt p

/-- The `k`-th output word of an engine, counted from 0 (R140). -/
def Engine.outWord (K : ConstTable) (e : Engine) (k : Nat) : Reg :=
  (Engine.advance K k e).scramble K

/-- The obligation on a uniform draw over `W`-bit words (R201). -/
def DrawOk (W : Nat) (dr : Nat → Nat → Nat) : Prop :=
  ∀ w d, w < 2 ^ W → 1 ≤ d → d ≤ 2147483647 → 1 ≤ dr w d ∧ dr w d ≤ d

/-! ### The dice grammar -/

/-- `\s`: space, tab, line feed, vertical tab, form feed, carriage return (R181). -/
abbrev SpaceByte (b : Byte) : Prop :=
  b = 0x20#8 ∨ b = 0x09#8 ∨ b = 0x0A#8 ∨ b = 0x0B#8 ∨ b = 0x0C#8 ∨ b = 0x0D#8

/-- `\d`: the ASCII characters `0` to `9` (R181). -/
abbrev DigitByte (b : Byte) : Prop := 0x30 ≤ b.toNat ∧ b.toNat ≤ 0x39

/-- `\s*` -/
def Spaces (l : List Byte) : Prop := ∀ b ∈ l, SpaceByte b

/-- `\d+` -/
def Literal (l : List Byte) : Prop := l ≠ [] ∧ ∀ b ∈ l, DigitByte b

/-- No digit stands first: the run before it was maximal (R186). -/
def NoDigitFirst (l : List Byte) : Prop := ∀ b rest, l = b :: rest → ¬ DigitByte b

/-- The number a run of digits denotes, by the weight of each digit's place, a digit's value being its byte
less `0x30` (R181, R186). -/
def placeValue (l : List Byte) : Nat :=
  match l with
  | [] => 0
  | b :: rest => (b.toNat - 0x30) * 10 ^ rest.length + placeValue rest

/-- `^\s*(\d+)d(\d+)` matches a prefix of `e`, the two groups have values `c` and `d`, and `tail` is
what follows (R182, R188). -/
def HeadMatch (e : List Byte) (c d : Nat) (tail : List Byte) : Prop :=
  ∃ ws run₁ run₂, e = ws ++ (run₁ ++ 0x64#8 :: (run₂ ++ tail)) ∧ Spaces ws ∧ Literal run₁
    ∧ Literal run₂ ∧ NoDigitFirst tail ∧ c = placeValue run₁ ∧ d = placeValue run₂

/-- `\s*[+-]\s*\d+` matches a prefix of `tail`, with the given sign and literal (R182, R188). -/
def SignedGroup (tail : List Byte) (neg : Bool) (m : Nat) : Prop :=
  ∃ w₁ sign w₂ run rest, tail = w₁ ++ sign :: (w₂ ++ (run ++ rest)) ∧ Spaces w₁
    ∧ (sign = 0x2B#8 ∧ neg = false ∨ sign = 0x2D#8 ∧ neg = true) ∧ Spaces w₂ ∧ Literal run
    ∧ NoDigitFirst rest ∧ m = placeValue run

/-- The optional third group: it takes part in the match, or it cannot (R188). -/
def GroupMatch (tail : List Byte) (g : Option (Bool × Nat)) : Prop :=
  match g with
  | some (neg, m) => SignedGroup tail neg m
  | none => ∀ neg m, ¬ SignedGroup tail neg m

/-- The modifier of a match: group 3 with its sign, 0 when it took no part (R188). -/
def groupValue (g : Option (Bool × Nat)) : Int :=
  match g with
  | some (true, m) => -(m : Int)
  | some (false, m) => m
  | none => 0

/-- The literal of group 3, 0 when it took no part. -/
def groupLiteral (g : Option (Bool × Nat)) : Nat :=
  match g with
  | some (_, m) => m
  | none => 0

end Sys2Proof.Machine
end

