-- ==== Sys2Proof/Certificates/Slice0/Obligations.lean ====
section
/-! DEFINITION. The statements about the model. Each docstring names the rule of spec/ it formalises. A
statement about what a command does concludes that `exec` answers a next state and gives that state whole,
so that it is the command's result, completion and frame at once. -/

open Sys2Proof Sys2Proof.Machine

/-! ### Engine state commands -/

/-- R101: `NOP` changes nothing, not even `ERR` and `ECODE`; the value 0 written to `CMD` is `NOP`. -/
def Obligations.NopChangesNothing : Prop :=
  decode 0x0#64 = .ok .nop ∧ ∀ s : State, exec .nop s = .next s

/-- R102: `CLR` leaves the all-zero state of the same variant and `INIT = 0`; `ZERO` reads 1; nothing
else but `ERR` and `ECODE` is written. -/
def Obligations.ClrGivesTheUninitialisedEngine : Prop :=
  decode 0x1#64 = .ok .clr ∧
  ∀ s : State, ∃ e : Engine,
    exec .clr s = .next { s with engine := e, init := false, err := false, ecode := 0 } ∧
    e.variant = s.engine.variant ∧ e.words = ⟨0, 0, 0, 0⟩ ∧ e.isZero = true

/-- R104, R105, at any parameters and at those of this hardware: before the warm-up word `i` is the low `W`
bits of the `(i+1)`-th iterate of `EXPAND` on `ARG0`, for every `i < N`; then `WARMUP` transitions; `INIT`
is 1; `RES` and the rest are unchanged. -/
def Obligations.Seed1ExpandsTheSeedAndWarmsUp : Prop :=
  decode 0x2#64 = .ok .seed1 ∧
  (∀ (P : Params) (s : State), ∃ e : Engine,
    e.variant = s.engine.variant ∧
    (∀ i : Fin 4, e.words.get i =
      if i.val < wordCount s.engine.variant
      then BitVec.ofNat 64 ((P.expand^[i.val + 1] s.arg0).toNat % 2 ^ wordWidth s.engine.variant)
      else 0) ∧
    execWith P .seed1 s = .next { s with
      engine := (fun x => (nextFn P.const x).2)^[warmupCount s.warmup] e,
      init := true, err := false, ecode := 0 }) ∧
  ∀ s : State, ∃ e : Engine,
    e.variant = s.engine.variant ∧
    (∀ i : Fin 4, e.words.get i =
      if i.val < wordCount s.engine.variant
      then BitVec.ofNat 64 ((expand^[i.val + 1] s.arg0).toNat % 2 ^ wordWidth s.engine.variant)
      else 0) ∧
    exec .seed1 s = .next { s with
      engine := (fun x => (nextFn constTable x).2)^[warmupCount s.warmup] e,
      init := true, err := false, ecode := 0 }

/-- R107, R108, at any parameters and at those of this hardware: even words come from the chain of `ARG0`,
odd words from the chain of `ARG1`, each chain threading its own 64-bit output; then the warm-up as in
`SEED1`. -/
def Obligations.Seed2InterleavesTwoChains : Prop :=
  decode 0x3#64 = .ok .seed2 ∧
  (∀ (P : Params) (s : State), ∃ e : Engine,
    e.variant = s.engine.variant ∧
    (∀ i : Fin 4, e.words.get i =
      if i.val < wordCount s.engine.variant
      then BitVec.ofNat 64 ((P.expand^[i.val / 2 + 1]
        (if i.val % 2 = 0 then s.arg0 else s.arg1)).toNat % 2 ^ wordWidth s.engine.variant)
      else 0) ∧
    execWith P .seed2 s = .next { s with
      engine := (fun x => (nextFn P.const x).2)^[warmupCount s.warmup] e,
      init := true, err := false, ecode := 0 }) ∧
  ∀ s : State, ∃ e : Engine,
    e.variant = s.engine.variant ∧
    (∀ i : Fin 4, e.words.get i =
      if i.val < wordCount s.engine.variant
      then BitVec.ofNat 64 ((expand^[i.val / 2 + 1]
        (if i.val % 2 = 0 then s.arg0 else s.arg1)).toNat % 2 ^ wordWidth s.engine.variant)
      else 0) ∧
    exec .seed2 s = .next { s with
      engine := (fun x => (nextFn constTable x).2)^[warmupCount s.warmup] e,
      init := true, err := false, ecode := 0 }

/-- R110, R111: `S[i] <- SINi[W-1:0]` for `i < N`, all at once, whatever the words; bits above `W` and
words beyond `N` ignored; no expansion, no warm-up; `INIT` is 1; `SIN` is unchanged. -/
def Obligations.LdstLoadsTheStagedWords : Prop :=
  decode 0x4#64 = .ok .ldst ∧
  ∀ s : State, ∃ e : Engine,
    e.variant = s.engine.variant ∧
    (∀ i : Fin 4, e.words.get i =
      if i.val < wordCount s.engine.variant
      then BitVec.ofNat 64 ((s.sin.get i).toNat % 2 ^ wordWidth s.engine.variant) else 0) ∧
    exec .ldst s = .next { s with engine := e, init := true, err := false, ecode := 0 }

/-- R113: `SOUTi <- zext_64(S[i])` for `i < N`, 0 beyond; `S`, `INIT` and the rest are unchanged. -/
def Obligations.RdstSnapshotsTheState : Prop :=
  decode 0x5#64 = .ok .rdst ∧
  ∀ s : State, ∃ q : Quad 64,
    exec .rdst s = .next { s with sout := q, err := false, ecode := 0 } ∧
    (∀ t w, s.engine = .xoshiro64 t w → q = w) ∧
    (∀ t w, s.engine = .xoshiro32 t w →
      q.x0.toNat = w.x0.toNat ∧ q.x1.toNat = w.x1.toNat ∧ q.x2.toNat = w.x2.toNat ∧
        q.x3.toNat = w.x3.toNat) ∧
    (∀ t w, s.engine = .xoroshiro64 t w → q = ⟨w.x0, w.x1, 0, 0⟩) ∧
    (∀ t w, s.engine = .xoroshiro32 t w →
      q.x0.toNat = w.x0.toNat ∧ q.x1.toNat = w.x1.toNat ∧ q.x2 = 0 ∧ q.x3 = 0)

/-- R106: seeding with `WARMUP = 2` leaves the engine that seeding with `WARMUP = 1` and one `NEXT` leave,
for both seeding commands. -/
def Obligations.WarmupTwoIsWarmupOneThenNext : Prop :=
  ∀ (i : Instr) (s : State), (i = .seed1 ∨ i = .seed2) →
    ∃ t u v, exec i { s with warmup := .one } = .next t ∧ exec .next t = .next u ∧
      exec i { s with warmup := .two } = .next v ∧ v.engine = u.engine

/-- R112: after `RDST`, loading the snapshot's first `N` words, whatever stands in the other staging
registers, into any instance of the same variant leaves the engine as it was, and the next `NEXT` there
returns what it would have returned here. -/
def Obligations.StateRoundTrip : Prop :=
  ∀ s s' : State, s'.engine.variant = s.engine.variant →
    ∃ t, exec .rdst s = .next t ∧
      ((∀ i : Fin 4, i.val < wordCount s.engine.variant → s'.sin.get i = t.sout.get i) →
        ∃ u v w, exec .ldst s' = .next u ∧ u.engine = s.engine ∧ u.init = true ∧
          exec .next u = .next v ∧ exec .next t = .next w ∧ v.res = w.res ∧ v.engine = w.engine)

/-- R109 (b), derived there for `W = 64`: `SEED1` never constructs the all-zero state, for any seed, zero
included, before or after any number of warm-up transitions. With any `EXPAND` that has R172 (c) and any
`CONST` with legal amounts, and on this hardware, where it rests on the constants of R171. -/
def Obligations.Seed1IsNeverDegenerateAt64Bits : Prop :=
  (∀ P : Params, constTableOk P.const = true → ExpandNeverZeroTwice P.expand →
    ∀ s : State, wordWidth s.engine.variant = 64 →
      ∃ t, execWith P .seed1 s = .next t ∧ t.zeroFlag = false) ∧
  ∀ s : State, wordWidth s.engine.variant = 64 →
    ∃ t, exec .seed1 s = .next t ∧ t.zeroFlag = false

/-- R109 (b) and conflict C13: at `W = 64` `SEED2` constructs the all-zero state exactly when `N = 2` and
both seeds are the one preimage of 0 under `EXPAND`; no error is raised. With any `EXPAND` that has R172 (b)
and (c) and any `CONST` with legal amounts, and on this hardware, where it rests on the constants of R171. -/
def Obligations.Seed2IsDegenerateAt64BitsExactlyAtOnePair : Prop :=
  (∀ (P : Params) (z : Reg), constTableOk P.const = true → ExpandZeroAt P.expand z →
    ExpandNeverZeroTwice P.expand → ∀ s : State, wordWidth s.engine.variant = 64 →
      ∃ t, execWith P .seed2 s = .next t ∧ t.err = false ∧
        (t.zeroFlag = true ↔ wordCount s.engine.variant = 2 ∧ s.arg0 = z ∧ s.arg1 = z)) ∧
  ∀ s : State, wordWidth s.engine.variant = 64 →
    ∃ t, exec .seed2 s = .next t ∧ t.err = false ∧
      (t.zeroFlag = true ↔ wordCount s.engine.variant = 2 ∧
        s.arg0 = 0x61C8864680B583EB#64 ∧ s.arg1 = 0x61C8864680B583EB#64)

/-! ### The transition -/

/-- R150: `NEXT` is one transition of the engine, its output word to `RES`; `INIT` is unchanged. With any
table `CONST` (R8) and with this hardware's. -/
def Obligations.NextIsOneTransition : Prop :=
  decode 0x6#64 = .ok .next ∧
  (∀ (P : Params) (s : State), execWith P .next s = .next { s with
    engine := (nextFn P.const s.engine).2, res := (nextFn P.const s.engine).1,
    err := false, ecode := 0 }) ∧
  ∀ s : State, exec .next s = .next { s with
    engine := (nextFn constTable s.engine).2, res := (nextFn constTable s.engine).1,
    err := false, ecode := 0 }

/-- R141, R142: the xoshiro and the xoroshiro update on the entry values, for every table of constants
whose amounts R134 and R136 give a meaning to. The rotation is core Lean's. -/
def Obligations.UpdatesFollowTheirRecurrence : Prop :=
  ∀ K : ConstTable, constTableOk K = true →
    (∀ t (s0 s1 s2 s3 : BitVec 64), ∀ k, K (Engine.variant (.xoshiro64 t ⟨s0, s1, s2, s3⟩)) = k →
      (nextFn K (.xoshiro64 t ⟨s0, s1, s2, s3⟩)).2 = .xoshiro64 t
        ⟨s0 ^^^ s3 ^^^ s1, s1 ^^^ s2 ^^^ s0, s2 ^^^ s0 ^^^ (s1 <<< k.sh),
          (s3 ^^^ s1).rotateLeft k.rs⟩) ∧
    (∀ t (s0 s1 s2 s3 : BitVec 32), ∀ k, K (Engine.variant (.xoshiro32 t ⟨s0, s1, s2, s3⟩)) = k →
      (nextFn K (.xoshiro32 t ⟨s0, s1, s2, s3⟩)).2 = .xoshiro32 t
        ⟨s0 ^^^ s3 ^^^ s1, s1 ^^^ s2 ^^^ s0, s2 ^^^ s0 ^^^ (s1 <<< k.sh),
          (s3 ^^^ s1).rotateLeft k.rs⟩) ∧
    (∀ t (s0 s1 : BitVec 64), ∀ k, K (Engine.variant (.xoroshiro64 t ⟨s0, s1⟩)) = k →
      (nextFn K (.xoroshiro64 t ⟨s0, s1⟩)).2 = .xoroshiro64 t
        ⟨s0.rotateLeft k.a ^^^ (s1 ^^^ s0) ^^^ ((s1 ^^^ s0) <<< k.b),
          (s1 ^^^ s0).rotateLeft k.c⟩) ∧
    (∀ t (s0 s1 : BitVec 32), ∀ k, K (Engine.variant (.xoroshiro32 t ⟨s0, s1⟩)) = k →
      (nextFn K (.xoroshiro32 t ⟨s0, s1⟩)).2 = .xoroshiro32 t
        ⟨s0.rotateLeft k.a ^^^ (s1 ^^^ s0) ^^^ ((s1 ^^^ s0) <<< k.b),
          (s1 ^^^ s0).rotateLeft k.c⟩)

/-- R152 (derived there from R139 to R149): the eleven transitions with the constants of this hardware,
output words first, then the updates, all from the state on entry (R140). The rotation is core Lean's. The
constants that R139 marks with a dagger are the spec's, from general knowledge. -/
def Obligations.ElevenTransitionsWithTheirConstants : Prop :=
  (∀ s0 s1 s2 s3 : BitVec 64,
    (nextFn constTable (.xoshiro64 .plusPlus ⟨s0, s1, s2, s3⟩)).1 = (s0 + s3).rotateLeft 23 + s0 ∧
    (nextFn constTable (.xoshiro64 .starStar ⟨s0, s1, s2, s3⟩)).1 = (s1 * 5#64).rotateLeft 7 * 9#64 ∧
    (nextFn constTable (.xoshiro64 .plus ⟨s0, s1, s2, s3⟩)).1 = s0 + s3) ∧
  (∀ s0 s1 s2 s3 : BitVec 32,
    (nextFn constTable (.xoshiro32 .plusPlus ⟨s0, s1, s2, s3⟩)).1.toNat
      = ((s0 + s3).rotateLeft 7 + s0).toNat ∧
    (nextFn constTable (.xoshiro32 .starStar ⟨s0, s1, s2, s3⟩)).1.toNat
      = ((s1 * 5#32).rotateLeft 7 * 9#32).toNat ∧
    (nextFn constTable (.xoshiro32 .plus ⟨s0, s1, s2, s3⟩)).1.toNat = (s0 + s3).toNat) ∧
  (∀ s0 s1 : BitVec 64,
    (nextFn constTable (.xoroshiro64 .plusPlus ⟨s0, s1⟩)).1 = (s0 + s1).rotateLeft 17 + s0 ∧
    (nextFn constTable (.xoroshiro64 .starStar ⟨s0, s1⟩)).1 = (s0 * 5#64).rotateLeft 7 * 9#64 ∧
    (nextFn constTable (.xoroshiro64 .plus ⟨s0, s1⟩)).1 = s0 + s1) ∧
  (∀ s0 s1 : BitVec 32,
    (nextFn constTable (.xoroshiro32 .starStar ⟨s0, s1⟩)).1.toNat
      = ((s0 * 5#32).rotateLeft 7 * 9#32).toNat ∧
    (nextFn constTable (.xoroshiro32 .star ⟨s0, s1⟩)).1.toNat = (s0 * 0x9E3779BB#32).toNat) ∧
  (∀ t (s0 s1 s2 s3 : BitVec 64), (nextFn constTable (.xoshiro64 t ⟨s0, s1, s2, s3⟩)).2 =
    .xoshiro64 t ⟨s0 ^^^ s3 ^^^ s1, s1 ^^^ s2 ^^^ s0, s2 ^^^ s0 ^^^ (s1 <<< 17),
      (s3 ^^^ s1).rotateLeft 45⟩) ∧
  (∀ t (s0 s1 s2 s3 : BitVec 32), (nextFn constTable (.xoshiro32 t ⟨s0, s1, s2, s3⟩)).2 =
    .xoshiro32 t ⟨s0 ^^^ s3 ^^^ s1, s1 ^^^ s2 ^^^ s0, s2 ^^^ s0 ^^^ (s1 <<< 9),
      (s3 ^^^ s1).rotateLeft 11⟩) ∧
  (∀ s0 s1 : BitVec 64,
    (nextFn constTable (.xoroshiro64 .plusPlus ⟨s0, s1⟩)).2 = .xoroshiro64 .plusPlus
      ⟨s0.rotateLeft 49 ^^^ (s1 ^^^ s0) ^^^ ((s1 ^^^ s0) <<< 21), (s1 ^^^ s0).rotateLeft 28⟩ ∧
    (nextFn constTable (.xoroshiro64 .starStar ⟨s0, s1⟩)).2 = .xoroshiro64 .starStar
      ⟨s0.rotateLeft 24 ^^^ (s1 ^^^ s0) ^^^ ((s1 ^^^ s0) <<< 16), (s1 ^^^ s0).rotateLeft 37⟩ ∧
    (nextFn constTable (.xoroshiro64 .plus ⟨s0, s1⟩)).2 = .xoroshiro64 .plus
      ⟨s0.rotateLeft 24 ^^^ (s1 ^^^ s0) ^^^ ((s1 ^^^ s0) <<< 16), (s1 ^^^ s0).rotateLeft 37⟩) ∧
  (∀ t (s0 s1 : BitVec 32), (nextFn constTable (.xoroshiro32 t ⟨s0, s1⟩)).2 = .xoroshiro32 t
      ⟨s0.rotateLeft 26 ^^^ (s1 ^^^ s0) ^^^ ((s1 ^^^ s0) <<< 9), (s1 ^^^ s0).rotateLeft 13⟩)

/-- R22: the all-zero state is a fixed point of every variant and yields 0 for ever; `LDST` accepts it;
and whether a command ends with an error, and which, never depends on the words of `S`. -/
def Obligations.AllZeroStateIsAFixedPoint : Prop :=
  (∀ (K : ConstTable) (e : Engine), e.isZero = true →
    ∀ n, Engine.advance K n e = e ∧ e.outWord K n = 0) ∧
  (∀ s : State, s.sin = ⟨0, 0, 0, 0⟩ →
    ∃ t, exec .ldst s = .next t ∧ t.zeroFlag = true ∧ t.init = true ∧ t.err = false) ∧
  (∀ (i : Instr) (s : State) (q : Quad 64), ∃ t u, exec i s = .next t ∧
    exec i { s with engine := s.engine.load q } = .next u ∧ u.err = t.err ∧ u.ecode = t.ecode)

/-- R156, derived there: for every table of constants with legal amounts the update is a bijection of the
states of a variant, and an engine that is not all-zero never reaches the all-zero state. -/
def Obligations.UpdateIsABijectionFixingZero : Prop :=
  ∀ K : ConstTable, constTableOk K = true →
    (∀ e e' : Engine, e.update K = e'.update K → e = e') ∧
    (∀ e : Engine, ∃ e' : Engine, e'.variant = e.variant ∧ e'.update K = e) ∧
    (∀ e : Engine, e.isZero = false → ∀ n, (Engine.advance K n e).isZero = false)

/-- R157: what `n` `NEXT` commands do to the engine and what the last of them returns depends on the
engine alone, whatever the other registers hold. -/
def Obligations.NextDependsOnTheEngineOnly : Prop :=
  ∀ (n : Nat) (s s' : State), s.engine = s'.engine →
    ∃ t t', execAll (List.replicate n .next) s = .next t ∧
      execAll (List.replicate n .next) s' = .next t' ∧ t.engine = t'.engine ∧
      (0 < n → t.res = t'.res)

/-- R153: `GMIN` gives 0. -/
def Obligations.GminGivesTheSmallestWord : Prop :=
  decode 0x7#64 = .ok .gmin ∧
  ∀ s : State, exec .gmin s = .next { s with res := 0, err := false, ecode := 0 }

/-- R154, R155: `GMAX` gives `2^W - 1`, zero-extended, and no output word of any state is greater. -/
def Obligations.GmaxGivesTheLargestWord : Prop :=
  decode 0x8#64 = .ok .gmax ∧
  (∀ s : State, exec .gmax s = .next { s with
    res := BitVec.ofNat 64 (2 ^ wordWidth s.engine.variant - 1), err := false, ecode := 0 }) ∧
  (∀ s : State, ∃ t hi, exec .next s = .next t ∧ exec .gmax s = .next hi ∧
    t.res.toNat ≤ hi.res.toNat)

/-! ### The seed expander -/

/-- R174, R171: `XPND` gives `EXPAND(ARG0)`, whatever function `EXPAND` is (R8), and this hardware's is the
five steps of R171, stated on natural numbers. The five numbers are the spec's, from general knowledge. -/
def Obligations.XpndAppliesTheExpander : Prop :=
  decode 0x9#64 = .ok .xpnd ∧
  (∀ (P : Params) (s : State), execWith P .xpnd s = .next { s with
    res := P.expand s.arg0, err := false, ecode := 0 }) ∧
  (∀ s : State, exec .xpnd s = .next { s with res := expand s.arg0, err := false, ecode := 0 }) ∧
  ∀ x : Reg, ∃ z0 z1 z2 : Nat,
    z0 = (x.toNat + 0x9E3779B97F4A7C15) % 2 ^ 64 ∧
    z1 = ((z0 ^^^ (z0 / 2 ^ 30)) * 0xBF58476D1CE4E5B9) % 2 ^ 64 ∧
    z2 = ((z1 ^^^ (z1 / 2 ^ 27)) * 0x94D049BB133111EB) % 2 ^ 64 ∧
    (expand x).toNat = z2 ^^^ (z2 / 2 ^ 31)

/-- R172, derived there: (a) `EXPAND` is a bijection of the 64-bit words, as is each kind of step it is made
of; (b) it maps exactly one word to 0; (c) `EXPAND(0)` is not 0, so two successive iterates are never both 0.
Rests on the constants of R171. Last, the same as the properties that a replacement of `EXPAND` must
establish anew: the hardware's parameter has them, and (c) follows for any function that does not map 0
to 0. -/
def Obligations.ExpandIsABijection : Prop :=
  (∀ x y : Reg, expand x = expand y → x = y) ∧ (∀ y : Reg, ∃ x : Reg, expand x = y) ∧
  (∀ c : Reg, ExpandBijective fun z => z + c) ∧
  (∀ k : Nat, 0 < k → ExpandBijective fun z => z ^^^ (z >>> k)) ∧
  (∀ m : Reg, m.toNat % 2 = 1 → ExpandBijective fun z => z * m) ∧
  (∀ x : Reg, expand x = 0 ↔ x = 0x61C8864680B583EB#64) ∧
  expand 0 = 0xE220A8397B1DCDAF#64 ∧
  (∀ x : Reg, ¬(expand x = 0 ∧ expand (expand x) = 0)) ∧
  (ExpandBijective hardware.expand ∧ ExpandZeroAt hardware.expand expandZeroPreimage ∧
    ExpandNeverZeroTwice hardware.expand) ∧
  (∀ f : Reg → Reg, f 0 ≠ 0 → ExpandNeverZeroTwice f)

/-! ### The dice commands -/

/-- R183: `XCLR` sets `EXLEN` to 0 and changes nothing else but `ERR` and `ECODE`. -/
def Obligations.XclrStartsANewString : Prop :=
  decode 0x10#64 = .ok .xclr ∧
  ∀ s : State, exec .xclr s = .next { s with exlen := 0, err := false, ecode := 0 }

/-- R184: with a full buffer `PUTC` raises `E_FULL` and nothing else changes; otherwise the byte at
position `EXLEN` becomes the immediate, `EXLEN` counts on, and every other byte and register stays. With any
capacity `EXPR_MAX` (R6) and with this hardware's, 64. -/
def Obligations.PutcAppendsOrReportsFull : Prop :=
  (∀ b : Byte, decode (0x11#64 ||| (b.setWidth 64 <<< 8)) = .ok (.putc b)) ∧
  (∀ (P : Params) (b : Byte) (s : State), s.exlen.toNat = P.exprMax →
    execWith P (.putc b) s = .next { s with err := true, ecode := 6 }) ∧
  (∀ (P : Params) (b : Byte) (s : State), s.InvWith P → s.exlen.toNat ≠ P.exprMax →
    ∃ m, execWith P (.putc b) s = .next { s with
        expr := m, exlen := s.exlen + 1, err := false, ecode := 0 } ∧
      Memory.read m s.exlen.toNat = b ∧
      ∀ p, p ≠ s.exlen.toNat → Memory.read m p = s.byteAt p) ∧
  (∀ (b : Byte) (s : State), s.exlen.toNat = 64 →
    exec (.putc b) s = .next { s with err := true, ecode := 6 }) ∧
  (∀ (b : Byte) (s : State), s.Inv → s.exlen.toNat ≠ 64 →
    ∃ m, exec (.putc b) s = .next { s with
        expr := m, exlen := s.exlen + 1, err := false, ecode := 0 } ∧
      Memory.read m s.exlen.toNat = b ∧
      ∀ p, p ≠ s.exlen.toNat → Memory.read m p = s.byteAt p)

/-- R190, R191, with the codes of R33: `e` is the string of the bytes `EXPR[0]` to `EXPR[EXLEN-1]` in rising
order (R40). Where `PARSEFN` accepts it the triple and `DVALID = 1` are written; where it rejects it the
triple and `DVALID` are cleared and `ECODE` is 1 for `E_NOSEP`, 2 for `E_COUNT`, 3 for `E_SIDES`, 4 for
`E_RANGE`; nothing else changes. -/
def Obligations.ParseWritesOrClearsTheTriple : Prop :=
  decode 0x12#64 = .ok .parse ∧
  ∀ (s : State) (e : List Byte), e.length = s.exlen.toNat →
    (∀ p, p < s.exlen.toNat → e[p]? = some (s.byteAt p)) →
    (∀ d : DiceExpr, parseFn e = .ok d →
      exec .parse s = .next { s with
        count := BitVec.ofInt 32 d.count, sides := BitVec.ofInt 32 d.sides,
        modifier := BitVec.ofInt 32 d.modifier, dvalid := true, err := false, ecode := 0 }) ∧
    (∀ (c : ErrCode) (n : BitVec 4),
      c = .noSep ∧ n = 1 ∨ c = .count ∧ n = 2 ∨ c = .sides ∧ n = 3 ∨ c = .range ∧ n = 4 →
      parseFn e = .error c →
      exec .parse s = .next { s with
        count := 0, sides := 0, modifier := 0, dvalid := false, err := true, ecode := n }) ∧
    (∃ t, exec .parse s = .next t)

/-- R187, R188 (the equivalence is derived there), with the prefix reading of decision D19: the scan
accepts exactly the strings of which the grammar's expression matches a prefix with every captured literal
at most `2^31 - 1`, with the values of the three groups. And R181: the scan's byte classes, written out; the
grammar has its own. -/
def Obligations.ParserMatchesTheGrammar : Prop :=
  (∀ b : Byte, isSpace b = true ↔ b = 0x20#8 ∨ b = 0x09#8 ∨ b = 0x0A#8 ∨ b = 0x0B#8 ∨ b = 0x0C#8 ∨
    b = 0x0D#8) ∧
  (∀ b : Byte, isDigit b = true ↔ 0x30 ≤ b.toNat ∧ b.toNat ≤ 0x39) ∧
  (∀ b : Byte, isSep b = true ↔ b = 0x64#8) ∧
  (∀ b : Byte, isSign b = true ↔ b = 0x2B#8 ∨ b = 0x2D#8) ∧
  (∀ b : Byte, isDigit b = true → digitVal b + 0x30 = b.toNat ∧ digitVal b ≤ 9) ∧
  ∀ (e : List Byte) (c d : Nat) (m : Int), parseFn e = .ok ⟨c, d, m⟩ ↔
    ∃ tail g, HeadMatch e c d tail ∧ GroupMatch tail g ∧ m = groupValue g ∧
      c ≤ 2147483647 ∧ d ≤ 2147483647 ∧ groupLiteral g ≤ 2147483647

/-- R189: which error. `E_COUNT` exactly when no digit follows the leading white space, `E_NOSEP` exactly
when no `d` follows the first literal, `E_SIDES` exactly when no digit follows the `d`, whatever the
literals' size; `E_RANGE` exactly when the expression matches and a captured literal is greater than
`2^31 - 1`: a syntax failure takes precedence over a range failure. No other code. -/
def Obligations.ParserReportsTheFirstFailure : Prop :=
  (∀ e : List Byte, parseFn e = .error .count ↔
    ∃ ws rest, e = ws ++ rest ∧ Spaces ws ∧ NoDigitFirst rest ∧
      ∀ b r, rest = b :: r → b ≠ 0x20#8 ∧ b ≠ 0x09#8 ∧ b ≠ 0x0A#8 ∧ b ≠ 0x0B#8 ∧ b ≠ 0x0C#8 ∧
        b ≠ 0x0D#8) ∧
  (∀ e : List Byte, parseFn e = .error .noSep ↔
    ∃ ws run rest, e = ws ++ (run ++ rest) ∧ Spaces ws ∧ Literal run ∧ NoDigitFirst rest ∧
      ∀ b r, rest = b :: r → b ≠ 0x64#8) ∧
  (∀ e : List Byte, parseFn e = .error .sides ↔
    ∃ ws run rest, e = ws ++ (run ++ 0x64#8 :: rest) ∧ Spaces ws ∧ Literal run ∧
      NoDigitFirst rest) ∧
  (∀ e : List Byte, parseFn e = .error .range ↔
    ∃ c d tail g, HeadMatch e c d tail ∧ GroupMatch tail g ∧
      (2147483647 < c ∨ 2147483647 < d ∨ 2147483647 < groupLiteral g)) ∧
  (∀ e : List Byte, parseFn e ≠ .error .dice ∧ parseFn e ≠ .error .full ∧ parseFn e ≠ .error .ill)

/-- R40, R43: no byte of `EXPR` at a position `>= EXLEN` is ever observed: two states with the invariant
that differ only there step alike, read the same values, and differ only there afterwards. -/
def Obligations.UnreachableBytesAreNeverObserved : Prop :=
  (∀ P : Params, ∀ s s' t : State, s.InvWith P → s'.InvWith P → sameButUnreachable s s' →
    stepWith P s = .next t → ∃ t', stepWith P s' = .next t' ∧ sameButUnreachable t t') ∧
  ∀ s s' t : State, s.Inv → s'.Inv → sameButUnreachable s s' → step s = .next t →
    ∃ t', step s' = .next t' ∧ sameButUnreachable t t'

/-- R198: `LDDX` loads the three 32-bit fields and refuses no value. -/
def Obligations.LddxLoadsTheTriple : Prop :=
  decode 0x13#64 = .ok .lddx ∧
  ∀ s : State, exec .lddx s = .next { s with
    count := BitVec.ofNat 32 (s.arg0.toNat % 2 ^ 32),
    sides := BitVec.ofNat 32 (s.arg0.toNat / 2 ^ 32),
    modifier := BitVec.ofNat 32 (s.arg1.toNat % 2 ^ 32),
    dvalid := true, err := false, ecode := 0 }

/-- R205: `SAMPLE` on a valid triple with `COUNT >= 1` and `SIDES >= 1` makes exactly `COUNT`
transitions, and `RES` is the sum of the draws of the words they give plus `MOD`, for any `DRAW` and
`CONST`; otherwise `E_DICE` and nothing else. On this hardware the draw is the default of R202,
`1 + (w mod SIDES)`, which is the spec's own choice (log 11). -/
def Obligations.SampleSumsOneDrawPerTransition : Prop :=
  decode 0x14#64 = .ok .sample ∧
  (∀ (P : Params) (s : State), s.dvalid = true → 1 ≤ s.count.toInt → 1 ≤ s.sides.toInt →
    execWith P .sample s = .next { s with
      engine := Engine.advance P.const s.count.toNat s.engine,
      res := BitVec.ofInt 64
        (((List.range s.count.toNat).map fun k =>
          P.draw (s.engine.outWord P.const k).toNat s.sides.toNat).sum + s.modifier.toInt),
      err := false, ecode := 0 }) ∧
  (∀ s : State, s.dvalid = true → 1 ≤ s.count.toInt → 1 ≤ s.sides.toInt →
    exec .sample s = .next { s with
      engine := Engine.advance constTable s.count.toNat s.engine,
      res := BitVec.ofInt 64
        (((List.range s.count.toNat).map fun k =>
          1 + (s.engine.outWord constTable k).toNat % s.sides.toNat).sum + s.modifier.toInt),
      err := false, ecode := 0 }) ∧
  (∀ s : State, (s.dvalid = false ∨ s.count.toInt < 1 ∨ s.sides.toInt < 1) →
    exec .sample s = .next { s with err := true, ecode := 5 })

/-- R201, R206 (a), (d): for every table of constants and every `DRAW` that meets its obligation on the
engine's words the roll advances the engine by exactly the number of dice, whatever the draw; with one side
every die is 1. -/
def Obligations.RollAdvancesByTheCountForEveryDraw : Prop :=
  ∀ (K : ConstTable) (dr : Nat → Nat → Nat) (sides n : Nat) (e : Engine) (acc : Reg),
    (rollDice K dr sides n e acc).2 = Engine.advance K n e ∧
    (DrawOk (wordWidth e.variant) dr → sides = 1 →
      (rollDice K dr sides n e acc).1 = acc + BitVec.ofNat 64 n)

/-- R207 with R204 (derived there), for every table of constants and every `DRAW` that meets its
obligation on the engine's words: the roll plus the modifier lies in
`[count + modifier, count * sides + modifier]` as a signed 64-bit integer, nothing wrapping. -/
def Obligations.RollStaysWithinTheDiceBounds : Prop :=
  ∀ (K : ConstTable) (dr : Nat → Nat → Nat) (e : Engine), DrawOk (wordWidth e.variant) dr →
    ∀ count sides modifier : BitVec 32, 1 ≤ count.toInt → 1 ≤ sides.toInt →
      count.toInt + modifier.toInt ≤
        ((rollDice K dr sides.toNat count.toNat e 0).1 + modifier.signExtend 64).toInt ∧
      ((rollDice K dr sides.toNat count.toNat e 0).1 + modifier.signExtend 64).toInt ≤
        count.toInt * sides.toInt + modifier.toInt

/-- R207, R206 (c) in registers: a successful `SAMPLE` lies between what `DMIN` and `DMAX` return for the
same triple, and on an all-zero engine it is what `DMIN` returns. -/
def Obligations.SampleLiesBetweenDminAndDmax : Prop :=
  ∀ s : State, s.dvalid = true → 1 ≤ s.count.toInt → 1 ≤ s.sides.toInt →
    ∃ t lo hi, exec .sample s = .next t ∧ exec .dmin s = .next lo ∧ exec .dmax s = .next hi ∧
      lo.res.toInt ≤ t.res.toInt ∧ t.res.toInt ≤ hi.res.toInt ∧
      (s.zeroFlag = true → t.res = lo.res)

/-- R208: `DMIN` gives `COUNT + MOD`, which never wraps (R204), on every valid triple; without one it
raises `E_DICE` and nothing else changes. -/
def Obligations.DminIsCountPlusModifier : Prop :=
  decode 0x15#64 = .ok .dmin ∧
  (∀ s : State, s.dvalid = true → ∃ v : Reg,
    exec .dmin s = .next { s with res := v, err := false, ecode := 0 } ∧
    v.toInt = s.count.toInt + s.modifier.toInt) ∧
  (∀ s : State, s.dvalid = false → exec .dmin s = .next { s with err := true, ecode := 5 })

/-- R209: `DMAX` gives `COUNT * SIDES + MOD`, which never wraps (R204), on every valid triple, whatever
the signs; without one it raises `E_DICE` and nothing else changes. -/
def Obligations.DmaxIsCountTimesSidesPlusModifier : Prop :=
  decode 0x16#64 = .ok .dmax ∧
  (∀ s : State, s.dvalid = true → ∃ v : Reg,
    exec .dmax s = .next { s with res := v, err := false, ecode := 0 } ∧
    v.toInt = s.count.toInt * s.sides.toInt + s.modifier.toInt) ∧
  (∀ s : State, s.dvalid = false → exec .dmax s = .next { s with err := true, ecode := 5 })

/-! ### Encoding -/

/-- R71, R74: every command decodes from its encoding with its immediate, and a value that decodes is the
encoding of what it decodes to: every legal value has one meaning and every command one value. -/
def Obligations.DecodeAndEncodeAgree : Prop :=
  (∀ i : Instr, decode (encode i) = .ok i) ∧
  (∀ (v : Reg) (i : Instr), decode v = .ok i → encode i = v)

/-- R74: a value decodes to a command exactly when its bits 63:32 are 0, its low word under the row's mask
is the row's match, and the immediate is the field `imm8`. -/
def Obligations.DecodeFollowsTheOpcodeTable : Prop :=
  ∀ (v : Reg) (i : Instr), decode v = .ok i ↔
    v.toNat < 2 ^ 32 ∧ v.setWidth 32 &&& tableMask i = tableMatch i ∧
      ∀ b, i = .putc b → b.toNat = v.toNat / 2 ^ 8 % 2 ^ 8

/-- R93 and the vectors of 95 section 6: command words written out from the format, and the four kinds of
illegal value. -/
def Obligations.WorkedEncodingsDecode : Prop :=
  decode 0x0000000000000006#64 = .ok .next ∧
  decode 0x0000000000000003#64 = .ok .seed2 ∧
  decode 0x0000000000006411#64 = .ok (.putc 0x64) ∧
  decode 0x0000000000002011#64 = .ok (.putc 0x20) ∧
  decode 0x0000000000000012#64 = .ok .parse ∧
  decode 0x0000000000000016#64 = .ok .dmax ∧
  decode 0x0000000000000106#64 = .error .immediate ∧
  decode 0x0000000000010006#64 = .error .reservedBits ∧
  decode 0x0000000100000006#64 = .error .highBits ∧
  decode 0x000000000000000A#64 = .error .opcode

/-- R82: a write to `CMD` of a value that meets one of the four conditions ends with `ERR = 1`,
`ECODE = 7`, and nothing else of the block changes, whatever the commands do. -/
def Obligations.IllegalWordsReportEIll : Prop :=
  ∀ (run : Executor) (s : State) (v : Reg),
    (v.toNat / 2 ^ 32 ≠ 0 ∨ v.toNat / 2 ^ 16 % 2 ^ 16 ≠ 0 ∨
      opcodeAssigned (BitVec.ofNat 8 v.toNat) = false ∨
      (v.toNat / 2 ^ 8 % 2 ^ 8 ≠ 0 ∧ v.toNat % 2 ^ 8 ≠ 0x11)) →
    regWrite run 0 v s = .next { s with err := true, ecode := 7 }

/-! ### The step and the host port -/

/-- R29, R26: when the next host event is a register write, the step is that write on the state with the
event taken off the model's queue (log 1); and where the register is `CMD` and the value decodes to a
command, it is that command. And `exec` and `step` are the machine over its parameters (R6, R42, R251) at
those of this hardware, of which the same holds at any (log 15). -/
def Obligations.StepRunsTheDecodedCommand : Prop :=
  (∀ (s : State) (idx : BitVec 6) (v : Reg) (rest : List HostEvent), s.host = .write idx v :: rest →
    step s = regWrite exec idx v { s with host := rest } ∧
    ∀ i, idx = 0 → decode v = .ok i → step s = exec i { s with host := rest }) ∧
  (∀ (P : Params) (s : State) (idx : BitVec 6) (v : Reg) (rest : List HostEvent),
    s.host = .write idx v :: rest →
    stepWith P s = regWrite (execWith P) idx v { s with host := rest } ∧
    ∀ i, idx = 0 → decode v = .ok i → stepWith P s = execWith P i { s with host := rest }) ∧
  (∀ (i : Instr) (s : State), exec i s = execWith hardware i s) ∧
  (∀ s : State, step s = stepWith hardware s)

/-- R231, R252: with no host access pending the state stays as it is (in the model's terms, log 2). -/
def Obligations.NothingHappensWithoutTheHost : Prop :=
  ∀ s : State, s.host = [] → step s = .next s

/-- R28, R27: a read returns the register's value, 0 for `CMD` and reserved indices, and changes no
register (the value is appended to the model's record of reads, log 1). -/
def Obligations.RegReadFollowsTheRegisterMap : Prop :=
  ∀ (s : State) (idx : BitVec 6) (rest : List HostEvent), s.host = .read idx :: rest →
    ∃ v : Reg, step s = .next { s with host := rest, reads := s.reads ++ [v] } ∧
      (idx.toNat = 0x01 → v = s.statusWord) ∧
      (idx.toNat = 0x02 → v = s.arg0) ∧
      (idx.toNat = 0x03 → v = s.arg1) ∧
      (idx.toNat = 0x04 → v = s.res) ∧
      (idx.toNat = 0x05 → v = s.idWord hardware) ∧
      (∀ i : Fin 4, idx.toNat = 0x08 + i.val → v = s.sin.get i) ∧
      (∀ i : Fin 4, idx.toNat = 0x0C + i.val → v = s.sout.get i) ∧
      (idx.toNat = 0x10 → v.toInt = s.count.toInt) ∧
      (idx.toNat = 0x11 → v.toInt = s.sides.toInt) ∧
      (idx.toNat = 0x12 → v.toInt = s.modifier.toInt) ∧
      (idx.toNat = 0x13 → v.toNat = s.exlen.toNat) ∧
      (idx.toNat = 0x00 ∨ idx.toNat = 0x06 ∨ idx.toNat = 0x07 ∨ 0x14 ≤ idx.toNat → v = 0)

/-- R28: a write to a read-write register replaces its value; a write to a read-only or reserved register
does nothing. -/
def Obligations.RegWriteStoresOrIsIgnored : Prop :=
  ∀ (s : State) (idx : BitVec 6) (v : Reg) (rest : List HostEvent), s.host = .write idx v :: rest →
    (idx.toNat = 0x02 → step s = .next { s with host := rest, arg0 := v }) ∧
    (idx.toNat = 0x03 → step s = .next { s with host := rest, arg1 := v }) ∧
    (∀ i : Fin 4, idx.toNat = 0x08 + i.val →
      ∃ q : Quad 64, step s = .next { s with host := rest, sin := q } ∧ q.get i = v ∧
        ∀ j, j ≠ i → q.get j = s.sin.get j) ∧
    (idx.toNat = 0x01 ∨ (0x04 ≤ idx.toNat ∧ idx.toNat ≤ 0x07) ∨ 0x0C ≤ idx.toNat →
      step s = .next { s with host := rest })

/-- R30, R32: the value `STATUS` reads as, field by field, and `ZERO` reads 1 exactly when every word of
`S` is 0. -/
def Obligations.StatusReadsItsFields : Prop :=
  ∀ s : State,
    s.statusWord.toNat = s.init.toNat + 2 * s.zeroFlag.toNat + 4 * s.dvalid.toNat
      + 8 * s.err.toNat + 16 * s.ecode.toNat ∧
    (s.zeroFlag = true ↔ ∀ i : Fin 4, i.val < wordCount s.engine.variant → s.engine.words.get i = 0)

/-- R36, R21, R6, R7: the value `ID` reads as at any legal `EXPR_MAX`, 64 on this hardware; the eleven `VSEL`
codes with the variant, `N` and `W` of each shape of the engine, written out; the two values of `WARMUP`; and
the strap value `VSEL` selects the variant. -/
def Obligations.IdReadsTheParameters : Prop :=
  (∀ (P : Params) (s : State), exprMaxOk P.exprMax = true →
    (s.idWord P).toNat = (vselCode s.engine.variant).toNat + 16 * wordCount s.engine.variant
      + 2 ^ 8 * wordWidth s.engine.variant + 2 ^ 16 * warmupCount s.warmup
      + 2 ^ 24 * P.exprMax) ∧
  hardware.exprMax = 64 ∧ exprMaxOk 1 = true ∧ exprMaxOk 255 = true ∧
  warmupCount .one = 1 ∧ warmupCount .two = 2 ∧
  (vselCode .x256pp = 0 ∧ vselCode .x256ss = 1 ∧ vselCode .x256p = 2 ∧ vselCode .x128pp = 3 ∧
    vselCode .x128ss = 4 ∧ vselCode .x128p = 5 ∧ vselCode .xr128pp = 6 ∧ vselCode .xr128ss = 7 ∧
    vselCode .xr128p = 8 ∧ vselCode .xr64ss = 9 ∧ vselCode .xr64s = 10) ∧
  (∀ q : Quad 64, (Engine.xoshiro64 .plusPlus q).variant = .x256pp ∧
    (Engine.xoshiro64 .starStar q).variant = .x256ss ∧ (Engine.xoshiro64 .plus q).variant = .x256p) ∧
  (∀ q : Quad 32, (Engine.xoshiro32 .plusPlus q).variant = .x128pp ∧
    (Engine.xoshiro32 .starStar q).variant = .x128ss ∧ (Engine.xoshiro32 .plus q).variant = .x128p) ∧
  (∀ q : Pair 64, (Engine.xoroshiro64 .plusPlus q).variant = .xr128pp ∧
    (Engine.xoroshiro64 .starStar q).variant = .xr128ss ∧
    (Engine.xoroshiro64 .plus q).variant = .xr128p) ∧
  (∀ q : Pair 32, (Engine.xoroshiro32 .starStar q).variant = .xr64ss ∧
    (Engine.xoroshiro32 .star q).variant = .xr64s) ∧
  (∀ v : Variant, wordWidth v =
      (if v = .x128pp ∨ v = .x128ss ∨ v = .x128p ∨ v = .xr64ss ∨ v = .xr64s then 32 else 64) ∧
    wordCount v = (if (vselCode v).toNat ≤ 5 then 4 else 2) ∧
    strapVariant (vselCode v) = some v)

/-- R43, R250: what reset leaves, for every strap and warm-up count, as the registers read; and
`State.reset` is such a state (which strap and count it has is the model's choice, logs 3 and 4). -/
def Obligations.ResetLeavesTheSpecsValues : Prop :=
  (∀ (v : Variant) (wu : Warmup), ∃ s, s = State.resetFor v wu ∧
    s.engine.variant = v ∧ s.warmup = wu ∧ s.engine.words = ⟨0, 0, 0, 0⟩ ∧
    s.init = false ∧ s.zeroFlag = true ∧ s.dvalid = false ∧ s.err = false ∧ s.ecode = 0 ∧
    s.arg0 = 0 ∧ s.arg1 = 0 ∧ s.res = 0 ∧ s.sin = ⟨0, 0, 0, 0⟩ ∧ s.sout = ⟨0, 0, 0, 0⟩ ∧
    s.count = 0 ∧ s.sides = 0 ∧ s.modifier = 0 ∧ s.exlen = 0 ∧ s.statusWord = 0x02#64) ∧
  (∃ v wu, State.reset = State.resetFor v wu)

/-- R250, R251 as the model's reset event makes them happen (log 6): every register at its reset value,
the variant that of the strap, `WARMUP` as built; a strap of 11 to 15 is refused (U9, log 7). -/
def Obligations.PlatformResetLatchesTheStrap : Prop :=
  ∀ (s : State) (vsel : BitVec 4) (rest : List HostEvent), s.host = .reset vsel :: rest →
    (vsel.toNat ≤ 10 → ∃ v, vselCode v = vsel ∧
      step s = .next { State.resetFor v s.warmup with host := rest, reads := s.reads }) ∧
    (11 ≤ vsel.toNat → step s = .refused (.illegalStrap vsel))

/-- R52: on a byte-addressed bus register `idx` stands at byte offset `8 * idx`: the aligned 64-bit access
there is the register access. -/
def Obligations.BusAccessIsTheRegisterAccess : Prop :=
  ∀ (s : State) (idx : BitVec 6) (v : Reg) (rest : List HostEvent),
    step { s with host := .busWrite (8 * idx.toNat) 8 v :: rest } =
      step { s with host := .write idx v :: rest } ∧
    step { s with host := .busRead (8 * idx.toNat) 8 :: rest } =
      step { s with host := .read idx :: rest }

/-- R55, R21 (U9, U17): a step is refused exactly on a bus access that is not one aligned 64-bit access of
the block or a strap that selects no variant, it never faults, and no command is ever refused. -/
def Obligations.OnlyIllegalEventsAreRefused : Prop :=
  (∀ s : State, (∃ r, step s = .refused r) ↔ ∃ ev rest, s.host = ev :: rest ∧ eventOk ev = false) ∧
  (∀ (s : State) (f : Fault), step s ≠ .fault f) ∧
  (∀ (i : Instr) (s : State), ∃ t, exec i s = .next t)

/-- R60: a `RegWrite(ARG0, x)` issued before a `RegWrite(CMD, SEED1)` is seen by that `SEED1`, and a
`RegRead(RES)` issued after a `RegWrite(CMD, NEXT)` returns that `NEXT`'s output. -/
def Obligations.AccessesArePerformedInHostOrder : Prop :=
  ∀ (s : State) (x : Reg) (rest : List HostEvent),
    s.host = [.write 2 x, .write 0 (encode .seed1), .write 0 (encode .next), .read 4] ++ rest →
    ∃ t u v, exec .seed1 { s with host := .write 0 (encode .next) :: .read 4 :: rest, arg0 := x } = .next t ∧
      exec .next { t with host := .read 4 :: rest } = .next u ∧
      Host.Core.run ⟨State, Fault, Refusal, step, State.reset⟩ 4 s = .next v ∧
      v.reads = s.reads ++ [u.res] ∧ v.engine = u.engine ∧ v.host = rest

/-! ### Whole-machine rules -/

/-- R220, R228: the complete list of errors. What a write to `CMD` runs, other than `NOP`, ends with
`ERR = 0` and `ECODE = 0`, or it is an illegal value with code 7, `PARSE` with a code 1 to 4, `SAMPLE`,
`DMIN` or `DMAX` with code 5, or `PUTC` with code 6. -/
def Obligations.ErrorsAreTheListedOnes : Prop :=
  ∀ (v : Reg) (s : State), decode v ≠ .ok .nop → ∃ t, runCommand exec v s = .next t ∧
    ((t.err = false ∧ t.ecode = 0) ∨
     (t.err = true ∧
      (((∃ e, decode v = .error e) ∧ t.ecode = 7) ∨
       (decode v = .ok .parse ∧ (t.ecode = 1 ∨ t.ecode = 2 ∨ t.ecode = 3 ∨ t.ecode = 4)) ∨
       ((decode v = .ok .sample ∨ decode v = .ok .dmin ∨ decode v = .ok .dmax) ∧ t.ecode = 5 ∧
        (s.dvalid = false ∨
          (decode v = .ok .sample ∧ (s.count.toInt < 1 ∨ s.sides.toInt < 1)))) ∨
       ((∃ b, decode v = .ok (.putc b)) ∧ t.ecode = 6 ∧ s.exlen.toNat = 64))))

/-- R221, R191: a command or an illegal value that ends with an error changes `ERR` and `ECODE` and nothing
else, but for `PARSE`, which also clears the triple and `DVALID`. -/
def Obligations.FailedCommandsChangeOnlyTheReport : Prop :=
  ∀ (v : Reg) (s t : State), decode v ≠ .ok .nop → runCommand exec v s = .next t → t.err = true →
    (decode v ≠ .ok .parse → t = { s with err := true, ecode := t.ecode }) ∧
    (decode v = .ok .parse → t = { s with
      count := 0, sides := 0, modifier := 0, dvalid := false, err := true, ecode := t.ecode })

/-- R31: `INIT` is set by `SEED1`, `SEED2` and `LDST`, cleared by reset and `CLR`, kept by every other
command, and no command's behaviour depends on it. -/
def Obligations.InitIsWrittenByFourCommands : Prop :=
  (∀ (v : Variant) (wu : Warmup), (State.resetFor v wu).init = false) ∧
  ∀ (i : Instr) (s : State), ∃ t, exec i s = .next t ∧
    ((i = .seed1 ∨ i = .seed2 ∨ i = .ldst) → t.init = true) ∧
    (i = .clr → t.init = false) ∧
    (i ≠ .seed1 → i ≠ .seed2 → i ≠ .ldst → i ≠ .clr → t.init = s.init) ∧
    (∀ b, ∃ u, exec i { s with init := b } = .next u ∧ { u with init := t.init } = t)

/-- R23: the commands that can change `S` are `CLR`, `SEED1`, `SEED2`, `LDST`, `NEXT` and `SAMPLE`; no
other command changes a word of it. -/
def Obligations.OnlySixCommandsChangeTheState : Prop :=
  ∀ (i : Instr) (s t : State), exec i s = .next t →
    i ≠ .clr → i ≠ .seed1 → i ≠ .seed2 → i ≠ .ldst → i ≠ .next → i ≠ .sample →
    t.engine = s.engine

/-- R35: `RES` is written only by `NEXT`, `GMIN`, `GMAX`, `XPND`, `SAMPLE`, `DMIN` and `DMAX`, and only
when the command ends without error. -/
def Obligations.OnlyResultCommandsWriteRes : Prop :=
  ∀ (i : Instr) (s t : State), exec i s = .next t →
    (i ≠ .next ∧ i ≠ .gmin ∧ i ≠ .gmax ∧ i ≠ .xpnd ∧ i ≠ .sample ∧ i ≠ .dmin ∧ i ≠ .dmax) ∨
      (t.err = true ∧ i ≠ .nop) →
    t.res = s.res

/-- R195, R39: no command but `PARSE` and `LDDX` changes `COUNT`, `SIDES`, `MOD` or `DVALID`. -/
def Obligations.OnlyParseAndLddxChangeTheTriple : Prop :=
  ∀ (i : Instr) (s t : State), exec i s = .next t → i ≠ .parse → i ≠ .lddx →
    t.count = s.count ∧ t.sides = s.sides ∧ t.modifier = s.modifier ∧ t.dvalid = s.dvalid

/-- R34, R37, R38, R42: no command writes `ARG0`, `ARG1` or `SIN`, only `RDST` writes `SOUT`, no command
changes a parameter of the instance, and the model's queue and record are not a command's. -/
def Obligations.CommandsKeepOperandsAndParameters : Prop :=
  ∀ (i : Instr) (s t : State), exec i s = .next t →
    t.arg0 = s.arg0 ∧ t.arg1 = s.arg1 ∧ t.sin = s.sin ∧ (i ≠ .rdst → t.sout = s.sout) ∧
      t.engine.variant = s.engine.variant ∧ t.warmup = s.warmup ∧ t.host = s.host ∧ t.reads = s.reads

/-- R40, R50: every byte of the expression buffer is kept by every command but `PUTC`, and `PUTC` stores
one byte, at position `EXLEN` as it was on entry, when the buffer is not full; `EXLEN` is changed by
`XCLR` and `PUTC` only. -/
def Obligations.EveryBufferByteIsKeptButTheOnePutcStores : Prop :=
  ∀ (i : Instr) (s t : State), s.Inv → exec i s = .next t →
    ((∀ b, i ≠ .putc b) → ∀ p, t.byteAt p = s.byteAt p) ∧
    (∀ b, i = .putc b → (∀ p, p ≠ s.exlen.toNat → t.byteAt p = s.byteAt p) ∧
      (s.exlen.toNat ≠ 64 → t.byteAt s.exlen.toNat = b) ∧
      (s.exlen.toNat = 64 → ∀ p, t.byteAt p = s.byteAt p)) ∧
    (i ≠ .xclr → (∀ b, i ≠ .putc b) → t.exlen = s.exlen)

/-- R2, R6, R251: whatever the host does and whatever the other parameters are, no step changes `WARMUP`, and
no step but a reset changes the variant. -/
def Obligations.VariantAndParametersAreImmutable : Prop :=
  (∀ (P : Params) (s t : State), stepWith P s = .next t → t.warmup = s.warmup ∧
    ((∀ ev rest, s.host = ev :: rest → isReset ev = false) → t.engine.variant = s.engine.variant)) ∧
  ∀ s t : State, step s = .next t → t.warmup = s.warmup ∧
    ((∀ ev rest, s.host = ev :: rest → isReset ev = false) → t.engine.variant = s.engine.variant)

/-- R40, R33, R39, R191, R31, R103, R38: the invariant that every step keeps, from every state that has
it, at any parameters with a legal `EXPR_MAX` and at those of this hardware: the buffer canonical and within
its bounds, `ECODE` 0 exactly when `ERR` is 0 and never above 7, no triple without `DVALID`, an unassigned
engine all-zero, the snapshot made of `W`-bit words. -/
def Obligations.EveryStepKeepsTheInvariant : Prop :=
  (∀ P : Params, exprMaxOk P.exprMax = true →
    ∀ s t : State, s.InvWith P → stepWith P s = .next t → t.InvWith P) ∧
  ∀ s t : State, s.Inv → step s = .next t → t.Inv

/-- The invariant holds after reset, for every strap and warm-up count and any parameters, and of
`State.reset`. -/
def Obligations.ResetMeetsTheInvariant : Prop :=
  (∀ (P : Params) (v : Variant) (wu : Warmup), (State.resetFor v wu).InvWith P) ∧ State.reset.Inv

/-- R54: the byte-serial export of `RES` is the `W/8` bytes of the output word, least significant first,
and nothing above bit `W-1`. -/
def Obligations.RawExportIsLittleEndian : Prop :=
  ∀ (v : Variant) (res : Reg),
    (rawExport byteOrder (wordWidth v) res).length = wordWidth v / 8 ∧
    ((rawExport byteOrder (wordWidth v) res).foldr (fun b n => b.toNat + 256 * n) 0)
      = res.toNat % 2 ^ wordWidth v
end

