-- ==== Sys2Proof/Laws/Decode.lean ====
section
/-! SUPPORT. The opcode rows read backwards, and what a legal value for `CMD` has in each field
(spec/30_encoding.md R70, R71, R74, R82). -/

namespace Sys2Proof

/-- A row has one opcode, and takes the immediate only for `PUTC` (R74). -/
theorem opcodeRow_eq_some {op imm8 : Byte} {i : Instr} (h : opcodeRow op imm8 = some i) :
    op = opcode i ∧ immediate i = if op = 0x11#8 then imm8 else 0 := by
  unfold opcodeRow at h
  have hop : op = BitVec.ofNat 8 op.toNat := by simp
  generalize op.toNat = n at *
  subst hop
  split at h <;> first | (cases h; exact ⟨rfl, rfl⟩) | cases h

/-- The fields of a value that decodes (R71): zeros above bit 15, the opcode, the immediate. -/
theorem fields_of_decode {v : Reg} {i : Instr} (h : decode v = .ok i) :
    aboveWord v = 0#32 ∧ rsvField v = 0#16 ∧ opField v = opcode i ∧ immField v = immediate i := by
  unfold decode at h
  split at h
  · cases h
  split at h
  · cases h
  split at h
  · cases h
  split at h
  · cases h
  rename_i h1 h2 _ j hj h3
  cases h
  obtain ⟨hop, himm⟩ := opcodeRow_eq_some hj
  refine ⟨by simpa using h1, by simpa using h2, hop, ?_⟩
  by_cases hp : opField v = 0x11#8
  · rw [himm, if_pos hp]
  · rw [himm, if_neg hp]
    by_contra hc
    exact h3 ⟨hp, hc⟩

/-- A value is its four fields (R70). -/
theorem fields_append (v : Reg) : aboveWord v ++ rsvField v ++ immField v ++ opField v = v := by
  apply BitVec.eq_of_getLsbD_eq
  intro k hk
  simp only [aboveWord, rsvField, opField, immField, BitVec.getLsbD_append,
    BitVec.getLsbD_extractLsb']
  by_cases h8 : k < 8
  · simp [h8]
  by_cases h16 : k - 8 < 8
  · simp only [h8, h16, if_false, if_true]
    rw [show 8 + (k - 8) = k by omega]; simp
  by_cases h32 : k - 8 - 8 < 16
  · simp only [h8, h16, h32, if_false, if_true]
    rw [show 16 + (k - 8 - 8) = k by omega]; simp
  · simp only [h8, h16, h32, if_false]
    rw [show 32 + (k - 8 - 8 - 16) = k by omega]
    simp; omega

end Sys2Proof
end

