-- ==== Sys2Proof/Laws/State.lean ====
section
/-! SUPPORT. One lemma per field of State per update of Machine/Flags.lean and Machine/Ops.lean, and per
read-only view under the updates that leave it alone: all by `rfl`, so that no proof unfolds a record
update. (`(rfl)` in brackets keeps `simp` from using a lemma by unfolding alone: Laws/Exec.lean says why.) -/

namespace Sys2Proof.Machine

variable (s : State)

@[simp] theorem State.clearError_engine : (s.clearError).engine = s.engine := (rfl)
@[simp] theorem State.clearError_warmup : (s.clearError).warmup = s.warmup := (rfl)
@[simp] theorem State.clearError_init : (s.clearError).init = s.init := (rfl)
@[simp] theorem State.clearError_dvalid : (s.clearError).dvalid = s.dvalid := (rfl)
@[simp] theorem State.clearError_err : (s.clearError).err = false := (rfl)
@[simp] theorem State.clearError_ecode : (s.clearError).ecode = 0 := (rfl)
@[simp] theorem State.clearError_arg0 : (s.clearError).arg0 = s.arg0 := (rfl)
@[simp] theorem State.clearError_arg1 : (s.clearError).arg1 = s.arg1 := (rfl)
@[simp] theorem State.clearError_res : (s.clearError).res = s.res := (rfl)
@[simp] theorem State.clearError_sin : (s.clearError).sin = s.sin := (rfl)
@[simp] theorem State.clearError_sout : (s.clearError).sout = s.sout := (rfl)
@[simp] theorem State.clearError_count : (s.clearError).count = s.count := (rfl)
@[simp] theorem State.clearError_sides : (s.clearError).sides = s.sides := (rfl)
@[simp] theorem State.clearError_modifier : (s.clearError).modifier = s.modifier := (rfl)
@[simp] theorem State.clearError_exlen : (s.clearError).exlen = s.exlen := (rfl)
@[simp] theorem State.clearError_expr : (s.clearError).expr = s.expr := (rfl)
@[simp] theorem State.clearError_host : (s.clearError).host = s.host := (rfl)
@[simp] theorem State.clearError_reads : (s.clearError).reads = s.reads := (rfl)
@[simp] theorem State.clearError_zeroFlag : (s.clearError).zeroFlag = s.zeroFlag := (rfl)
@[simp] theorem State.clearError_byteAt (p : Nat) : (s.clearError).byteAt p = s.byteAt p := (rfl)
@[simp] theorem State.clearError_source : (s.clearError).source = s.source := (rfl)

@[simp] theorem State.setError_engine (c : ErrCode) : (s.setError c).engine = s.engine := (rfl)
@[simp] theorem State.setError_warmup (c : ErrCode) : (s.setError c).warmup = s.warmup := (rfl)
@[simp] theorem State.setError_init (c : ErrCode) : (s.setError c).init = s.init := (rfl)
@[simp] theorem State.setError_dvalid (c : ErrCode) : (s.setError c).dvalid = s.dvalid := (rfl)
@[simp] theorem State.setError_err (c : ErrCode) : (s.setError c).err = true := (rfl)
@[simp] theorem State.setError_ecode (c : ErrCode) : (s.setError c).ecode = c.code := (rfl)
@[simp] theorem State.setError_arg0 (c : ErrCode) : (s.setError c).arg0 = s.arg0 := (rfl)
@[simp] theorem State.setError_arg1 (c : ErrCode) : (s.setError c).arg1 = s.arg1 := (rfl)
@[simp] theorem State.setError_res (c : ErrCode) : (s.setError c).res = s.res := (rfl)
@[simp] theorem State.setError_sin (c : ErrCode) : (s.setError c).sin = s.sin := (rfl)
@[simp] theorem State.setError_sout (c : ErrCode) : (s.setError c).sout = s.sout := (rfl)
@[simp] theorem State.setError_count (c : ErrCode) : (s.setError c).count = s.count := (rfl)
@[simp] theorem State.setError_sides (c : ErrCode) : (s.setError c).sides = s.sides := (rfl)
@[simp] theorem State.setError_modifier (c : ErrCode) : (s.setError c).modifier = s.modifier := (rfl)
@[simp] theorem State.setError_exlen (c : ErrCode) : (s.setError c).exlen = s.exlen := (rfl)
@[simp] theorem State.setError_expr (c : ErrCode) : (s.setError c).expr = s.expr := (rfl)
@[simp] theorem State.setError_host (c : ErrCode) : (s.setError c).host = s.host := (rfl)
@[simp] theorem State.setError_reads (c : ErrCode) : (s.setError c).reads = s.reads := (rfl)
@[simp] theorem State.setError_zeroFlag (c : ErrCode) : (s.setError c).zeroFlag = s.zeroFlag := (rfl)
@[simp] theorem State.setError_byteAt (c : ErrCode) (p : Nat) : (s.setError c).byteAt p = s.byteAt p := (rfl)
@[simp] theorem State.setError_source (c : ErrCode) : (s.setError c).source = s.source := (rfl)

@[simp] theorem State.setInit_engine (b : Bool) : (s.setInit b).engine = s.engine := (rfl)
@[simp] theorem State.setInit_warmup (b : Bool) : (s.setInit b).warmup = s.warmup := (rfl)
@[simp] theorem State.setInit_init (b : Bool) : (s.setInit b).init = b := (rfl)
@[simp] theorem State.setInit_dvalid (b : Bool) : (s.setInit b).dvalid = s.dvalid := (rfl)
@[simp] theorem State.setInit_err (b : Bool) : (s.setInit b).err = s.err := (rfl)
@[simp] theorem State.setInit_ecode (b : Bool) : (s.setInit b).ecode = s.ecode := (rfl)
@[simp] theorem State.setInit_arg0 (b : Bool) : (s.setInit b).arg0 = s.arg0 := (rfl)
@[simp] theorem State.setInit_arg1 (b : Bool) : (s.setInit b).arg1 = s.arg1 := (rfl)
@[simp] theorem State.setInit_res (b : Bool) : (s.setInit b).res = s.res := (rfl)
@[simp] theorem State.setInit_sin (b : Bool) : (s.setInit b).sin = s.sin := (rfl)
@[simp] theorem State.setInit_sout (b : Bool) : (s.setInit b).sout = s.sout := (rfl)
@[simp] theorem State.setInit_count (b : Bool) : (s.setInit b).count = s.count := (rfl)
@[simp] theorem State.setInit_sides (b : Bool) : (s.setInit b).sides = s.sides := (rfl)
@[simp] theorem State.setInit_modifier (b : Bool) : (s.setInit b).modifier = s.modifier := (rfl)
@[simp] theorem State.setInit_exlen (b : Bool) : (s.setInit b).exlen = s.exlen := (rfl)
@[simp] theorem State.setInit_expr (b : Bool) : (s.setInit b).expr = s.expr := (rfl)
@[simp] theorem State.setInit_host (b : Bool) : (s.setInit b).host = s.host := (rfl)
@[simp] theorem State.setInit_reads (b : Bool) : (s.setInit b).reads = s.reads := (rfl)
@[simp] theorem State.setInit_zeroFlag (b : Bool) : (s.setInit b).zeroFlag = s.zeroFlag := (rfl)
@[simp] theorem State.setInit_byteAt (b : Bool) (p : Nat) : (s.setInit b).byteAt p = s.byteAt p := (rfl)
@[simp] theorem State.setInit_source (b : Bool) : (s.setInit b).source = s.source := (rfl)

@[simp] theorem State.setEngine_engine (e : Engine) : (s.setEngine e).engine = e := (rfl)
@[simp] theorem State.setEngine_warmup (e : Engine) : (s.setEngine e).warmup = s.warmup := (rfl)
@[simp] theorem State.setEngine_init (e : Engine) : (s.setEngine e).init = s.init := (rfl)
@[simp] theorem State.setEngine_dvalid (e : Engine) : (s.setEngine e).dvalid = s.dvalid := (rfl)
@[simp] theorem State.setEngine_err (e : Engine) : (s.setEngine e).err = s.err := (rfl)
@[simp] theorem State.setEngine_ecode (e : Engine) : (s.setEngine e).ecode = s.ecode := (rfl)
@[simp] theorem State.setEngine_arg0 (e : Engine) : (s.setEngine e).arg0 = s.arg0 := (rfl)
@[simp] theorem State.setEngine_arg1 (e : Engine) : (s.setEngine e).arg1 = s.arg1 := (rfl)
@[simp] theorem State.setEngine_res (e : Engine) : (s.setEngine e).res = s.res := (rfl)
@[simp] theorem State.setEngine_sin (e : Engine) : (s.setEngine e).sin = s.sin := (rfl)
@[simp] theorem State.setEngine_sout (e : Engine) : (s.setEngine e).sout = s.sout := (rfl)
@[simp] theorem State.setEngine_count (e : Engine) : (s.setEngine e).count = s.count := (rfl)
@[simp] theorem State.setEngine_sides (e : Engine) : (s.setEngine e).sides = s.sides := (rfl)
@[simp] theorem State.setEngine_modifier (e : Engine) : (s.setEngine e).modifier = s.modifier := (rfl)
@[simp] theorem State.setEngine_exlen (e : Engine) : (s.setEngine e).exlen = s.exlen := (rfl)
@[simp] theorem State.setEngine_expr (e : Engine) : (s.setEngine e).expr = s.expr := (rfl)
@[simp] theorem State.setEngine_host (e : Engine) : (s.setEngine e).host = s.host := (rfl)
@[simp] theorem State.setEngine_reads (e : Engine) : (s.setEngine e).reads = s.reads := (rfl)
@[simp] theorem State.setEngine_byteAt (e : Engine) (p : Nat) : (s.setEngine e).byteAt p = s.byteAt p := (rfl)
@[simp] theorem State.setEngine_source (e : Engine) : (s.setEngine e).source = s.source := (rfl)

@[simp] theorem State.setRes_engine (v : Reg) : (s.setRes v).engine = s.engine := (rfl)
@[simp] theorem State.setRes_warmup (v : Reg) : (s.setRes v).warmup = s.warmup := (rfl)
@[simp] theorem State.setRes_init (v : Reg) : (s.setRes v).init = s.init := (rfl)
@[simp] theorem State.setRes_dvalid (v : Reg) : (s.setRes v).dvalid = s.dvalid := (rfl)
@[simp] theorem State.setRes_err (v : Reg) : (s.setRes v).err = s.err := (rfl)
@[simp] theorem State.setRes_ecode (v : Reg) : (s.setRes v).ecode = s.ecode := (rfl)
@[simp] theorem State.setRes_arg0 (v : Reg) : (s.setRes v).arg0 = s.arg0 := (rfl)
@[simp] theorem State.setRes_arg1 (v : Reg) : (s.setRes v).arg1 = s.arg1 := (rfl)
@[simp] theorem State.setRes_res (v : Reg) : (s.setRes v).res = v := (rfl)
@[simp] theorem State.setRes_sin (v : Reg) : (s.setRes v).sin = s.sin := (rfl)
@[simp] theorem State.setRes_sout (v : Reg) : (s.setRes v).sout = s.sout := (rfl)
@[simp] theorem State.setRes_count (v : Reg) : (s.setRes v).count = s.count := (rfl)
@[simp] theorem State.setRes_sides (v : Reg) : (s.setRes v).sides = s.sides := (rfl)
@[simp] theorem State.setRes_modifier (v : Reg) : (s.setRes v).modifier = s.modifier := (rfl)
@[simp] theorem State.setRes_exlen (v : Reg) : (s.setRes v).exlen = s.exlen := (rfl)
@[simp] theorem State.setRes_expr (v : Reg) : (s.setRes v).expr = s.expr := (rfl)
@[simp] theorem State.setRes_host (v : Reg) : (s.setRes v).host = s.host := (rfl)
@[simp] theorem State.setRes_reads (v : Reg) : (s.setRes v).reads = s.reads := (rfl)
@[simp] theorem State.setRes_zeroFlag (v : Reg) : (s.setRes v).zeroFlag = s.zeroFlag := (rfl)
@[simp] theorem State.setRes_byteAt (v : Reg) (p : Nat) : (s.setRes v).byteAt p = s.byteAt p := (rfl)
@[simp] theorem State.setRes_source (v : Reg) : (s.setRes v).source = s.source := (rfl)

@[simp] theorem State.setArg0_engine (v : Reg) : (s.setArg0 v).engine = s.engine := (rfl)
@[simp] theorem State.setArg0_warmup (v : Reg) : (s.setArg0 v).warmup = s.warmup := (rfl)
@[simp] theorem State.setArg0_init (v : Reg) : (s.setArg0 v).init = s.init := (rfl)
@[simp] theorem State.setArg0_dvalid (v : Reg) : (s.setArg0 v).dvalid = s.dvalid := (rfl)
@[simp] theorem State.setArg0_err (v : Reg) : (s.setArg0 v).err = s.err := (rfl)
@[simp] theorem State.setArg0_ecode (v : Reg) : (s.setArg0 v).ecode = s.ecode := (rfl)
@[simp] theorem State.setArg0_arg0 (v : Reg) : (s.setArg0 v).arg0 = v := (rfl)
@[simp] theorem State.setArg0_arg1 (v : Reg) : (s.setArg0 v).arg1 = s.arg1 := (rfl)
@[simp] theorem State.setArg0_res (v : Reg) : (s.setArg0 v).res = s.res := (rfl)
@[simp] theorem State.setArg0_sin (v : Reg) : (s.setArg0 v).sin = s.sin := (rfl)
@[simp] theorem State.setArg0_sout (v : Reg) : (s.setArg0 v).sout = s.sout := (rfl)
@[simp] theorem State.setArg0_count (v : Reg) : (s.setArg0 v).count = s.count := (rfl)
@[simp] theorem State.setArg0_sides (v : Reg) : (s.setArg0 v).sides = s.sides := (rfl)
@[simp] theorem State.setArg0_modifier (v : Reg) : (s.setArg0 v).modifier = s.modifier := (rfl)
@[simp] theorem State.setArg0_exlen (v : Reg) : (s.setArg0 v).exlen = s.exlen := (rfl)
@[simp] theorem State.setArg0_expr (v : Reg) : (s.setArg0 v).expr = s.expr := (rfl)
@[simp] theorem State.setArg0_host (v : Reg) : (s.setArg0 v).host = s.host := (rfl)
@[simp] theorem State.setArg0_reads (v : Reg) : (s.setArg0 v).reads = s.reads := (rfl)
@[simp] theorem State.setArg0_zeroFlag (v : Reg) : (s.setArg0 v).zeroFlag = s.zeroFlag := (rfl)
@[simp] theorem State.setArg0_byteAt (v : Reg) (p : Nat) : (s.setArg0 v).byteAt p = s.byteAt p := (rfl)
@[simp] theorem State.setArg0_source (v : Reg) : (s.setArg0 v).source = s.source := (rfl)

@[simp] theorem State.setArg1_engine (v : Reg) : (s.setArg1 v).engine = s.engine := (rfl)
@[simp] theorem State.setArg1_warmup (v : Reg) : (s.setArg1 v).warmup = s.warmup := (rfl)
@[simp] theorem State.setArg1_init (v : Reg) : (s.setArg1 v).init = s.init := (rfl)
@[simp] theorem State.setArg1_dvalid (v : Reg) : (s.setArg1 v).dvalid = s.dvalid := (rfl)
@[simp] theorem State.setArg1_err (v : Reg) : (s.setArg1 v).err = s.err := (rfl)
@[simp] theorem State.setArg1_ecode (v : Reg) : (s.setArg1 v).ecode = s.ecode := (rfl)
@[simp] theorem State.setArg1_arg0 (v : Reg) : (s.setArg1 v).arg0 = s.arg0 := (rfl)
@[simp] theorem State.setArg1_arg1 (v : Reg) : (s.setArg1 v).arg1 = v := (rfl)
@[simp] theorem State.setArg1_res (v : Reg) : (s.setArg1 v).res = s.res := (rfl)
@[simp] theorem State.setArg1_sin (v : Reg) : (s.setArg1 v).sin = s.sin := (rfl)
@[simp] theorem State.setArg1_sout (v : Reg) : (s.setArg1 v).sout = s.sout := (rfl)
@[simp] theorem State.setArg1_count (v : Reg) : (s.setArg1 v).count = s.count := (rfl)
@[simp] theorem State.setArg1_sides (v : Reg) : (s.setArg1 v).sides = s.sides := (rfl)
@[simp] theorem State.setArg1_modifier (v : Reg) : (s.setArg1 v).modifier = s.modifier := (rfl)
@[simp] theorem State.setArg1_exlen (v : Reg) : (s.setArg1 v).exlen = s.exlen := (rfl)
@[simp] theorem State.setArg1_expr (v : Reg) : (s.setArg1 v).expr = s.expr := (rfl)
@[simp] theorem State.setArg1_host (v : Reg) : (s.setArg1 v).host = s.host := (rfl)
@[simp] theorem State.setArg1_reads (v : Reg) : (s.setArg1 v).reads = s.reads := (rfl)
@[simp] theorem State.setArg1_zeroFlag (v : Reg) : (s.setArg1 v).zeroFlag = s.zeroFlag := (rfl)
@[simp] theorem State.setArg1_byteAt (v : Reg) (p : Nat) : (s.setArg1 v).byteAt p = s.byteAt p := (rfl)
@[simp] theorem State.setArg1_source (v : Reg) : (s.setArg1 v).source = s.source := (rfl)

@[simp] theorem State.setSin_engine (i : Fin 4) (v : Reg) : (s.setSin i v).engine = s.engine := (rfl)
@[simp] theorem State.setSin_warmup (i : Fin 4) (v : Reg) : (s.setSin i v).warmup = s.warmup := (rfl)
@[simp] theorem State.setSin_init (i : Fin 4) (v : Reg) : (s.setSin i v).init = s.init := (rfl)
@[simp] theorem State.setSin_dvalid (i : Fin 4) (v : Reg) : (s.setSin i v).dvalid = s.dvalid := (rfl)
@[simp] theorem State.setSin_err (i : Fin 4) (v : Reg) : (s.setSin i v).err = s.err := (rfl)
@[simp] theorem State.setSin_ecode (i : Fin 4) (v : Reg) : (s.setSin i v).ecode = s.ecode := (rfl)
@[simp] theorem State.setSin_arg0 (i : Fin 4) (v : Reg) : (s.setSin i v).arg0 = s.arg0 := (rfl)
@[simp] theorem State.setSin_arg1 (i : Fin 4) (v : Reg) : (s.setSin i v).arg1 = s.arg1 := (rfl)
@[simp] theorem State.setSin_res (i : Fin 4) (v : Reg) : (s.setSin i v).res = s.res := (rfl)
@[simp] theorem State.setSin_sin (i : Fin 4) (v : Reg) : (s.setSin i v).sin = s.sin.set i v := (rfl)
@[simp] theorem State.setSin_sout (i : Fin 4) (v : Reg) : (s.setSin i v).sout = s.sout := (rfl)
@[simp] theorem State.setSin_count (i : Fin 4) (v : Reg) : (s.setSin i v).count = s.count := (rfl)
@[simp] theorem State.setSin_sides (i : Fin 4) (v : Reg) : (s.setSin i v).sides = s.sides := (rfl)
@[simp] theorem State.setSin_modifier (i : Fin 4) (v : Reg) : (s.setSin i v).modifier = s.modifier := (rfl)
@[simp] theorem State.setSin_exlen (i : Fin 4) (v : Reg) : (s.setSin i v).exlen = s.exlen := (rfl)
@[simp] theorem State.setSin_expr (i : Fin 4) (v : Reg) : (s.setSin i v).expr = s.expr := (rfl)
@[simp] theorem State.setSin_host (i : Fin 4) (v : Reg) : (s.setSin i v).host = s.host := (rfl)
@[simp] theorem State.setSin_reads (i : Fin 4) (v : Reg) : (s.setSin i v).reads = s.reads := (rfl)
@[simp] theorem State.setSin_zeroFlag (i : Fin 4) (v : Reg) : (s.setSin i v).zeroFlag = s.zeroFlag := (rfl)
@[simp] theorem State.setSin_byteAt (i : Fin 4) (v : Reg) (p : Nat) : (s.setSin i v).byteAt p = s.byteAt p := (rfl)
@[simp] theorem State.setSin_source (i : Fin 4) (v : Reg) : (s.setSin i v).source = s.source := (rfl)

@[simp] theorem State.setSout_engine (q : Quad 64) : (s.setSout q).engine = s.engine := (rfl)
@[simp] theorem State.setSout_warmup (q : Quad 64) : (s.setSout q).warmup = s.warmup := (rfl)
@[simp] theorem State.setSout_init (q : Quad 64) : (s.setSout q).init = s.init := (rfl)
@[simp] theorem State.setSout_dvalid (q : Quad 64) : (s.setSout q).dvalid = s.dvalid := (rfl)
@[simp] theorem State.setSout_err (q : Quad 64) : (s.setSout q).err = s.err := (rfl)
@[simp] theorem State.setSout_ecode (q : Quad 64) : (s.setSout q).ecode = s.ecode := (rfl)
@[simp] theorem State.setSout_arg0 (q : Quad 64) : (s.setSout q).arg0 = s.arg0 := (rfl)
@[simp] theorem State.setSout_arg1 (q : Quad 64) : (s.setSout q).arg1 = s.arg1 := (rfl)
@[simp] theorem State.setSout_res (q : Quad 64) : (s.setSout q).res = s.res := (rfl)
@[simp] theorem State.setSout_sin (q : Quad 64) : (s.setSout q).sin = s.sin := (rfl)
@[simp] theorem State.setSout_sout (q : Quad 64) : (s.setSout q).sout = q := (rfl)
@[simp] theorem State.setSout_count (q : Quad 64) : (s.setSout q).count = s.count := (rfl)
@[simp] theorem State.setSout_sides (q : Quad 64) : (s.setSout q).sides = s.sides := (rfl)
@[simp] theorem State.setSout_modifier (q : Quad 64) : (s.setSout q).modifier = s.modifier := (rfl)
@[simp] theorem State.setSout_exlen (q : Quad 64) : (s.setSout q).exlen = s.exlen := (rfl)
@[simp] theorem State.setSout_expr (q : Quad 64) : (s.setSout q).expr = s.expr := (rfl)
@[simp] theorem State.setSout_host (q : Quad 64) : (s.setSout q).host = s.host := (rfl)
@[simp] theorem State.setSout_reads (q : Quad 64) : (s.setSout q).reads = s.reads := (rfl)
@[simp] theorem State.setSout_zeroFlag (q : Quad 64) : (s.setSout q).zeroFlag = s.zeroFlag := (rfl)
@[simp] theorem State.setSout_byteAt (q : Quad 64) (p : Nat) : (s.setSout q).byteAt p = s.byteAt p := (rfl)
@[simp] theorem State.setSout_source (q : Quad 64) : (s.setSout q).source = s.source := (rfl)

@[simp] theorem State.setTriple_engine (c d m : BitVec 32) (b : Bool) : (s.setTriple c d m b).engine = s.engine := (rfl)
@[simp] theorem State.setTriple_warmup (c d m : BitVec 32) (b : Bool) : (s.setTriple c d m b).warmup = s.warmup := (rfl)
@[simp] theorem State.setTriple_init (c d m : BitVec 32) (b : Bool) : (s.setTriple c d m b).init = s.init := (rfl)
@[simp] theorem State.setTriple_dvalid (c d m : BitVec 32) (b : Bool) : (s.setTriple c d m b).dvalid = b := (rfl)
@[simp] theorem State.setTriple_err (c d m : BitVec 32) (b : Bool) : (s.setTriple c d m b).err = s.err := (rfl)
@[simp] theorem State.setTriple_ecode (c d m : BitVec 32) (b : Bool) : (s.setTriple c d m b).ecode = s.ecode := (rfl)
@[simp] theorem State.setTriple_arg0 (c d m : BitVec 32) (b : Bool) : (s.setTriple c d m b).arg0 = s.arg0 := (rfl)
@[simp] theorem State.setTriple_arg1 (c d m : BitVec 32) (b : Bool) : (s.setTriple c d m b).arg1 = s.arg1 := (rfl)
@[simp] theorem State.setTriple_res (c d m : BitVec 32) (b : Bool) : (s.setTriple c d m b).res = s.res := (rfl)
@[simp] theorem State.setTriple_sin (c d m : BitVec 32) (b : Bool) : (s.setTriple c d m b).sin = s.sin := (rfl)
@[simp] theorem State.setTriple_sout (c d m : BitVec 32) (b : Bool) : (s.setTriple c d m b).sout = s.sout := (rfl)
@[simp] theorem State.setTriple_count (c d m : BitVec 32) (b : Bool) : (s.setTriple c d m b).count = c := (rfl)
@[simp] theorem State.setTriple_sides (c d m : BitVec 32) (b : Bool) : (s.setTriple c d m b).sides = d := (rfl)
@[simp] theorem State.setTriple_modifier (c d m : BitVec 32) (b : Bool) : (s.setTriple c d m b).modifier = m := (rfl)
@[simp] theorem State.setTriple_exlen (c d m : BitVec 32) (b : Bool) : (s.setTriple c d m b).exlen = s.exlen := (rfl)
@[simp] theorem State.setTriple_expr (c d m : BitVec 32) (b : Bool) : (s.setTriple c d m b).expr = s.expr := (rfl)
@[simp] theorem State.setTriple_host (c d m : BitVec 32) (b : Bool) : (s.setTriple c d m b).host = s.host := (rfl)
@[simp] theorem State.setTriple_reads (c d m : BitVec 32) (b : Bool) : (s.setTriple c d m b).reads = s.reads := (rfl)
@[simp] theorem State.setTriple_zeroFlag (c d m : BitVec 32) (b : Bool) : (s.setTriple c d m b).zeroFlag = s.zeroFlag := (rfl)
@[simp] theorem State.setTriple_byteAt (c d m : BitVec 32) (b : Bool) (p : Nat) : (s.setTriple c d m b).byteAt p = s.byteAt p := (rfl)
@[simp] theorem State.setTriple_source (c d m : BitVec 32) (b : Bool) : (s.setTriple c d m b).source = s.source := (rfl)

@[simp] theorem State.setExlen_engine (n : BitVec 8) : (s.setExlen n).engine = s.engine := (rfl)
@[simp] theorem State.setExlen_warmup (n : BitVec 8) : (s.setExlen n).warmup = s.warmup := (rfl)
@[simp] theorem State.setExlen_init (n : BitVec 8) : (s.setExlen n).init = s.init := (rfl)
@[simp] theorem State.setExlen_dvalid (n : BitVec 8) : (s.setExlen n).dvalid = s.dvalid := (rfl)
@[simp] theorem State.setExlen_err (n : BitVec 8) : (s.setExlen n).err = s.err := (rfl)
@[simp] theorem State.setExlen_ecode (n : BitVec 8) : (s.setExlen n).ecode = s.ecode := (rfl)
@[simp] theorem State.setExlen_arg0 (n : BitVec 8) : (s.setExlen n).arg0 = s.arg0 := (rfl)
@[simp] theorem State.setExlen_arg1 (n : BitVec 8) : (s.setExlen n).arg1 = s.arg1 := (rfl)
@[simp] theorem State.setExlen_res (n : BitVec 8) : (s.setExlen n).res = s.res := (rfl)
@[simp] theorem State.setExlen_sin (n : BitVec 8) : (s.setExlen n).sin = s.sin := (rfl)
@[simp] theorem State.setExlen_sout (n : BitVec 8) : (s.setExlen n).sout = s.sout := (rfl)
@[simp] theorem State.setExlen_count (n : BitVec 8) : (s.setExlen n).count = s.count := (rfl)
@[simp] theorem State.setExlen_sides (n : BitVec 8) : (s.setExlen n).sides = s.sides := (rfl)
@[simp] theorem State.setExlen_modifier (n : BitVec 8) : (s.setExlen n).modifier = s.modifier := (rfl)
@[simp] theorem State.setExlen_exlen (n : BitVec 8) : (s.setExlen n).exlen = n := (rfl)
@[simp] theorem State.setExlen_expr (n : BitVec 8) : (s.setExlen n).expr = s.expr := (rfl)
@[simp] theorem State.setExlen_host (n : BitVec 8) : (s.setExlen n).host = s.host := (rfl)
@[simp] theorem State.setExlen_reads (n : BitVec 8) : (s.setExlen n).reads = s.reads := (rfl)
@[simp] theorem State.setExlen_zeroFlag (n : BitVec 8) : (s.setExlen n).zeroFlag = s.zeroFlag := (rfl)
@[simp] theorem State.setExlen_byteAt (n : BitVec 8) (p : Nat) : (s.setExlen n).byteAt p = s.byteAt p := (rfl)

@[simp] theorem State.putByte_engine (p : Nat) (b : Byte) : (s.putByte p b).engine = s.engine := (rfl)
@[simp] theorem State.putByte_warmup (p : Nat) (b : Byte) : (s.putByte p b).warmup = s.warmup := (rfl)
@[simp] theorem State.putByte_init (p : Nat) (b : Byte) : (s.putByte p b).init = s.init := (rfl)
@[simp] theorem State.putByte_dvalid (p : Nat) (b : Byte) : (s.putByte p b).dvalid = s.dvalid := (rfl)
@[simp] theorem State.putByte_err (p : Nat) (b : Byte) : (s.putByte p b).err = s.err := (rfl)
@[simp] theorem State.putByte_ecode (p : Nat) (b : Byte) : (s.putByte p b).ecode = s.ecode := (rfl)
@[simp] theorem State.putByte_arg0 (p : Nat) (b : Byte) : (s.putByte p b).arg0 = s.arg0 := (rfl)
@[simp] theorem State.putByte_arg1 (p : Nat) (b : Byte) : (s.putByte p b).arg1 = s.arg1 := (rfl)
@[simp] theorem State.putByte_res (p : Nat) (b : Byte) : (s.putByte p b).res = s.res := (rfl)
@[simp] theorem State.putByte_sin (p : Nat) (b : Byte) : (s.putByte p b).sin = s.sin := (rfl)
@[simp] theorem State.putByte_sout (p : Nat) (b : Byte) : (s.putByte p b).sout = s.sout := (rfl)
@[simp] theorem State.putByte_count (p : Nat) (b : Byte) : (s.putByte p b).count = s.count := (rfl)
@[simp] theorem State.putByte_sides (p : Nat) (b : Byte) : (s.putByte p b).sides = s.sides := (rfl)
@[simp] theorem State.putByte_modifier (p : Nat) (b : Byte) : (s.putByte p b).modifier = s.modifier := (rfl)
@[simp] theorem State.putByte_exlen (p : Nat) (b : Byte) : (s.putByte p b).exlen = s.exlen := (rfl)
@[simp] theorem State.putByte_expr (p : Nat) (b : Byte) : (s.putByte p b).expr = Memory.write s.expr p b := (rfl)
@[simp] theorem State.putByte_host (p : Nat) (b : Byte) : (s.putByte p b).host = s.host := (rfl)
@[simp] theorem State.putByte_reads (p : Nat) (b : Byte) : (s.putByte p b).reads = s.reads := (rfl)
@[simp] theorem State.putByte_zeroFlag (p : Nat) (b : Byte) : (s.putByte p b).zeroFlag = s.zeroFlag := (rfl)

@[simp] theorem State.setHost_engine (h : List HostEvent) : (s.setHost h).engine = s.engine := (rfl)
@[simp] theorem State.setHost_warmup (h : List HostEvent) : (s.setHost h).warmup = s.warmup := (rfl)
@[simp] theorem State.setHost_init (h : List HostEvent) : (s.setHost h).init = s.init := (rfl)
@[simp] theorem State.setHost_dvalid (h : List HostEvent) : (s.setHost h).dvalid = s.dvalid := (rfl)
@[simp] theorem State.setHost_err (h : List HostEvent) : (s.setHost h).err = s.err := (rfl)
@[simp] theorem State.setHost_ecode (h : List HostEvent) : (s.setHost h).ecode = s.ecode := (rfl)
@[simp] theorem State.setHost_arg0 (h : List HostEvent) : (s.setHost h).arg0 = s.arg0 := (rfl)
@[simp] theorem State.setHost_arg1 (h : List HostEvent) : (s.setHost h).arg1 = s.arg1 := (rfl)
@[simp] theorem State.setHost_res (h : List HostEvent) : (s.setHost h).res = s.res := (rfl)
@[simp] theorem State.setHost_sin (h : List HostEvent) : (s.setHost h).sin = s.sin := (rfl)
@[simp] theorem State.setHost_sout (h : List HostEvent) : (s.setHost h).sout = s.sout := (rfl)
@[simp] theorem State.setHost_count (h : List HostEvent) : (s.setHost h).count = s.count := (rfl)
@[simp] theorem State.setHost_sides (h : List HostEvent) : (s.setHost h).sides = s.sides := (rfl)
@[simp] theorem State.setHost_modifier (h : List HostEvent) : (s.setHost h).modifier = s.modifier := (rfl)
@[simp] theorem State.setHost_exlen (h : List HostEvent) : (s.setHost h).exlen = s.exlen := (rfl)
@[simp] theorem State.setHost_expr (h : List HostEvent) : (s.setHost h).expr = s.expr := (rfl)
@[simp] theorem State.setHost_host (h : List HostEvent) : (s.setHost h).host = h := (rfl)
@[simp] theorem State.setHost_reads (h : List HostEvent) : (s.setHost h).reads = s.reads := (rfl)
@[simp] theorem State.setHost_zeroFlag (h : List HostEvent) : (s.setHost h).zeroFlag = s.zeroFlag := (rfl)
@[simp] theorem State.setHost_byteAt (h : List HostEvent) (p : Nat) : (s.setHost h).byteAt p = s.byteAt p := (rfl)
@[simp] theorem State.setHost_source (h : List HostEvent) : (s.setHost h).source = s.source := (rfl)

@[simp] theorem State.pushRead_engine (v : Reg) : (s.pushRead v).engine = s.engine := (rfl)
@[simp] theorem State.pushRead_warmup (v : Reg) : (s.pushRead v).warmup = s.warmup := (rfl)
@[simp] theorem State.pushRead_init (v : Reg) : (s.pushRead v).init = s.init := (rfl)
@[simp] theorem State.pushRead_dvalid (v : Reg) : (s.pushRead v).dvalid = s.dvalid := (rfl)
@[simp] theorem State.pushRead_err (v : Reg) : (s.pushRead v).err = s.err := (rfl)
@[simp] theorem State.pushRead_ecode (v : Reg) : (s.pushRead v).ecode = s.ecode := (rfl)
@[simp] theorem State.pushRead_arg0 (v : Reg) : (s.pushRead v).arg0 = s.arg0 := (rfl)
@[simp] theorem State.pushRead_arg1 (v : Reg) : (s.pushRead v).arg1 = s.arg1 := (rfl)
@[simp] theorem State.pushRead_res (v : Reg) : (s.pushRead v).res = s.res := (rfl)
@[simp] theorem State.pushRead_sin (v : Reg) : (s.pushRead v).sin = s.sin := (rfl)
@[simp] theorem State.pushRead_sout (v : Reg) : (s.pushRead v).sout = s.sout := (rfl)
@[simp] theorem State.pushRead_count (v : Reg) : (s.pushRead v).count = s.count := (rfl)
@[simp] theorem State.pushRead_sides (v : Reg) : (s.pushRead v).sides = s.sides := (rfl)
@[simp] theorem State.pushRead_modifier (v : Reg) : (s.pushRead v).modifier = s.modifier := (rfl)
@[simp] theorem State.pushRead_exlen (v : Reg) : (s.pushRead v).exlen = s.exlen := (rfl)
@[simp] theorem State.pushRead_expr (v : Reg) : (s.pushRead v).expr = s.expr := (rfl)
@[simp] theorem State.pushRead_host (v : Reg) : (s.pushRead v).host = s.host := (rfl)
@[simp] theorem State.pushRead_reads (v : Reg) : (s.pushRead v).reads = s.reads ++ [v] := (rfl)
@[simp] theorem State.pushRead_zeroFlag (v : Reg) : (s.pushRead v).zeroFlag = s.zeroFlag := (rfl)
@[simp] theorem State.pushRead_byteAt (v : Reg) (p : Nat) : (s.pushRead v).byteAt p = s.byteAt p := (rfl)
@[simp] theorem State.pushRead_source (v : Reg) : (s.pushRead v).source = s.source := (rfl)

@[simp] theorem State.setEngine_zeroFlag (e : Engine) : (s.setEngine e).zeroFlag = e.isZero := (rfl)
@[simp] theorem done_eq : done s = .next s.clearError := (rfl)
@[simp] theorem raise_eq (c : ErrCode) : raise c s = .next (s.setError c) := (rfl)

/-- A result and a clean report, as one record: the value stays a variable, so nothing in it is unfolded. -/
theorem setRes_clearError_eq (v : Reg) :
    (s.setRes v).clearError = { s with res := v, err := false, ecode := 0 } := (rfl)

end Sys2Proof.Machine
end

