-- ==== Sys2Proof/Laws/Words.lean ====
section
/-! SUPPORT. Word arithmetic (spec/41_engine_next.md R131 to R136): the rotation is core Lean's, and
rotation, `y ^ (y << k)`, `y ^ (y >> k)` and multiplication by an invertible constant are injective. The
properties of `EXPAND` (spec/42_seed_expander.md R172). -/

namespace Sys2Proof.Machine

theorem rotl_eq_rotateLeft {w k : Nat} (x : BitVec w) (hk : k < w) : rotl x k = x.rotateLeft k := by
  rw [BitVec.rotateLeft_def, Nat.mod_eq_of_lt hk, rotl]

@[simp] theorem rotl_zero {w : Nat} (k : Nat) : rotl (0#w) k = 0#w := by
  simp [rotl]

theorem getLsbD_rotl {w k i : Nat} (x : BitVec w) (hk : k < w) (hi : i < w) :
    (rotl x k).getLsbD i = if i < k then x.getLsbD (w - k + i) else x.getLsbD (i - k) := by
  rw [rotl_eq_rotateLeft x hk, BitVec.getLsbD_rotateLeft, Nat.mod_eq_of_lt hk]
  split <;> simp [*]

theorem rotl_injective {w k : Nat} (hk : k < w) : Function.Injective fun x : BitVec w => rotl x k := by
  intro x y h
  refine BitVec.eq_of_getLsbD_eq fun i hi => ?_
  by_cases hlt : i + k < w
  · have := congrArg (fun z => z.getLsbD (i + k)) h
    simpa [getLsbD_rotl _ hk hlt] using this
  · have hj : i + k - w < w := by omega
    have := congrArg (fun z => z.getLsbD (i + k - w)) h
    simp only [getLsbD_rotl _ hk hj] at this
    rw [if_pos (by omega), if_pos (by omega)] at this
    rwa [show w - k + (i + k - w) = i by omega] at this

theorem xor_shiftLeft_injective {w k : Nat} (hk : 0 < k) :
    Function.Injective fun y : BitVec w => y ^^^ (y <<< k) := by
  intro x y h
  have hbit : ∀ i, i < w → x.getLsbD i = y.getLsbD i := by
    intro i
    induction i using Nat.strong_induction_on with
    | _ i ih =>
      intro hi
      have hb := congrArg (fun z => z.getLsbD i) h
      simp only [BitVec.getLsbD_xor, BitVec.getLsbD_shiftLeft, hi, decide_true, Bool.true_and] at hb
      by_cases hlt : i < k
      · simpa [hlt] using hb
      · have := ih (i - k) (by omega) (by omega)
        rw [this] at hb
        simpa using hb
  exact BitVec.eq_of_getLsbD_eq hbit

theorem xor_shiftRight_injective {w k : Nat} (hk : 0 < k) :
    Function.Injective fun y : BitVec w => y ^^^ (y >>> k) := by
  intro x y h
  have hbit : ∀ n i, w ≤ i + n → x.getLsbD i = y.getLsbD i := by
    intro n
    induction n with
    | zero =>
      intro i hi
      rw [BitVec.getLsbD_of_ge x i (by simpa using hi), BitVec.getLsbD_of_ge y i (by simpa using hi)]
    | succ n ih =>
      intro i hi
      have hb := congrArg (fun z => z.getLsbD i) h
      simp only [BitVec.getLsbD_xor, BitVec.getLsbD_ushiftRight] at hb
      rw [ih (k + i) (by omega)] at hb
      simpa using hb
  exact BitVec.eq_of_getLsbD_eq fun i _ => hbit w i (by omega)

theorem mul_injective_of_inverse {w : Nat} (c d : BitVec w) (h : c * d = 1) :
    Function.Injective fun x : BitVec w => x * c := by
  intro x y hxy
  have := congrArg (· * d) hxy
  simpa [BitVec.mul_assoc, h] using this

/-- A self-map of the words that is injective is onto. -/
theorem surjective_of_injective {w : Nat} {f : BitVec w → BitVec w} (h : Function.Injective f) :
    Function.Surjective f := by
  have : Finite (BitVec w) := Finite.of_injective BitVec.toFin (fun a b h => BitVec.eq_of_toFin_eq h)
  exact Finite.surjective_of_injective h

/-- `EXPAND` as its five steps, each of which is injective (R171, R172). -/
theorem expand_injective : Function.Injective expand := by
  have h1 : Function.Injective fun x : Reg => x + 0x9E3779B97F4A7C15 := by
    intro x y h; simpa using h
  have h2 := xor_shiftRight_injective (w := 64) (k := 30) (by omega)
  have h3 := mul_injective_of_inverse (0xBF58476D1CE4E5B9 : Reg) 0x96DE1B173F119089 (by decide)
  have h4 := xor_shiftRight_injective (w := 64) (k := 27) (by omega)
  have h5 := mul_injective_of_inverse (0x94D049BB133111EB : Reg) 0x319642B2D24D8EC3 (by decide)
  have h6 := xor_shiftRight_injective (w := 64) (k := 31) (by omega)
  intro x y h
  exact h1 (h2 (h3 (h4 (h5 (h6 h)))))

/-- The one word that `EXPAND` maps to 0 (R172 (b)). -/
theorem expand_preimage_of_zero : expand 0x61C8864680B583EB = 0 := by decide

theorem expand_eq_zero_iff (x : Reg) : expand x = 0 ↔ x = 0x61C8864680B583EB#64 :=
  ⟨fun h => expand_injective (h.trans expand_preimage_of_zero.symm),
    fun h => h ▸ expand_preimage_of_zero⟩

/-- `EXPAND(0)` is not 0 (R172 (c)). -/
theorem expand_zero : expand 0 = 0xE220A8397B1DCDAF#64 := by decide

/-- A function with one preimage of 0 that does not map 0 to 0 never gives 0 twice in a row (R172 (c)). -/
theorem expandNeverZeroTwice_of_zero_ne {f : Reg → Reg} (h : f 0 ≠ 0) : ExpandNeverZeroTwice f := by
  rintro x ⟨h1, h2⟩
  exact h (h1 ▸ h2)

/-- R172 (a), (b), (c) of the `EXPAND` of this hardware. -/
theorem expand_bijective : ExpandBijective expand :=
  ⟨fun _ _ h => expand_injective h, surjective_of_injective expand_injective⟩

theorem expand_zeroAt : ExpandZeroAt expand expandZeroPreimage := expand_eq_zero_iff

theorem expand_neverZeroTwice : ExpandNeverZeroTwice expand :=
  expandNeverZeroTwice_of_zero_ne (by rw [expand_zero]; decide)

end Sys2Proof.Machine
end

