-- ==== Sys2Proof/Laws/Engine.lean ====
section
/-! SUPPORT. The engine: what loading, reading back and stepping it keep and give (spec/10_state.md R20 to
R24; spec/41_engine_next.md R140 to R142, R156). -/

namespace Sys2Proof.Machine

/-! ### The variant is kept -/

@[simp] theorem Engine.variant_zero (v : Variant) : (Engine.zero v).variant = v := by cases v <;> rfl

@[simp] theorem Engine.variant_load (e : Engine) (q : Quad 64) : (e.load q).variant = e.variant := by
  cases e with
  | xoshiro64 t s => cases t <;> rfl
  | xoshiro32 t s => cases t <;> rfl
  | xoroshiro64 t s => cases t <;> rfl
  | xoroshiro32 t s => cases t <;> rfl

@[simp] theorem Engine.variant_update (K : ConstTable) (e : Engine) :
    (e.update K).variant = e.variant := by
  cases e with
  | xoshiro64 t s => cases t <;> rfl
  | xoshiro32 t s => cases t <;> rfl
  | xoroshiro64 t s => cases t <;> rfl
  | xoroshiro32 t s => cases t <;> rfl

theorem nextFn_snd (K : ConstTable) (e : Engine) : (nextFn K e).2 = e.update K := rfl

theorem nextFn_fst (K : ConstTable) (e : Engine) : (nextFn K e).1 = e.scramble K := rfl

@[simp] theorem Engine.variant_advance (K : ConstTable) (n : Nat) (e : Engine) :
    (Engine.advance K n e).variant = e.variant := by
  induction n generalizing e with
  | zero => rfl
  | succ n ih => rw [Engine.advance, ih, nextFn_snd, Engine.variant_update]

@[simp] theorem Engine.variant_seeded (K : ConstTable) (wu : Warmup) (q : Quad 64) (e : Engine) :
    (e.seeded K wu q).variant = e.variant := by simp [Engine.seeded]

/-! ### Transitions compose -/

theorem Engine.advance_succ (K : ConstTable) (n : Nat) (e : Engine) :
    Engine.advance K (n + 1) e = Engine.advance K n (e.update K) := rfl

theorem Engine.advance_add (K : ConstTable) (m n : Nat) (e : Engine) :
    Engine.advance K (m + n) e = Engine.advance K n (Engine.advance K m e) := by
  induction m generalizing e with
  | zero => simp [Engine.advance]
  | succ m ih => rw [Nat.add_right_comm, Engine.advance_succ, ih, Engine.advance_succ]

/-- One more transition, made last. -/
theorem Engine.advance_succ_last (K : ConstTable) (n : Nat) (e : Engine) :
    Engine.advance K (n + 1) e = (Engine.advance K n e).update K := by
  rw [Engine.advance_add]; rfl

theorem Engine.advance_eq_iterate (K : ConstTable) (n : Nat) (e : Engine) :
    Engine.advance K n e = (fun x => (nextFn K x).2)^[n] e := by
  induction n generalizing e with
  | zero => rfl
  | succ n ih => rw [Engine.advance_succ, ih, Function.iterate_succ_apply, nextFn_snd]

/-- The word after the first is the first word of the engine one transition on. -/
theorem Engine.outWord_succ (K : ConstTable) (e : Engine) (k : Nat) :
    e.outWord K (k + 1) = (e.update K).outWord K k := rfl

theorem Engine.outWord_zero (K : ConstTable) (e : Engine) : e.outWord K 0 = e.scramble K := rfl

/-! ### The all-zero state -/

theorem Engine.isZero_iff_words (e : Engine) : e.isZero = true ↔ e.words = ⟨0, 0, 0, 0⟩ := by
  have h (a : BitVec 32) : a.setWidth 64 = 0 ↔ a = 0 := by
    constructor
    · intro h
      have := congrArg BitVec.toNat h
      simp at this
      exact BitVec.eq_of_toNat_eq (by simpa using by omega)
    · rintro rfl; rfl
  cases e with
  | xoshiro64 t s => obtain ⟨a, b, c, d⟩ := s; simp [Engine.isZero, Engine.words, Quad.zero]
  | xoshiro32 t s =>
    obtain ⟨a, b, c, d⟩ := s
    simp only [Engine.isZero, Engine.words, Quad.zero, Quad.mk.injEq, beq_iff_eq, h]
  | xoroshiro64 t s => obtain ⟨a, b⟩ := s; simp [Engine.isZero, Engine.words, Pair.zero]
  | xoroshiro32 t s =>
    obtain ⟨a, b⟩ := s
    simp only [Engine.isZero, Engine.words, Pair.zero, Quad.mk.injEq, Pair.mk.injEq, beq_iff_eq, h,
      and_true]

@[simp] theorem Engine.isZero_zero (v : Variant) : (Engine.zero v).isZero = true := by
  cases v <;> rfl

/-- The all-zero state maps to itself (R22). -/
theorem Engine.update_of_isZero (K : ConstTable) {e : Engine} (h : e.isZero = true) :
    e.update K = e := by
  cases e <;> simp only [Engine.isZero, beq_iff_eq] at h <;> subst h <;>
    simp [Engine.update, xoshiroUpdate, xoroshiroUpdate, Quad.zero, Pair.zero]

/-- The all-zero state yields 0 (R22). -/
theorem Engine.scramble_of_isZero (K : ConstTable) {e : Engine} (h : e.isZero = true) :
    e.scramble K = 0 := by
  cases e with
  | xoshiro64 t s =>
    simp only [Engine.isZero, beq_iff_eq] at h; subst h
    cases t <;> simp [Engine.scramble, xoshiroPlusPlus, xoshiroStarStar, xoshiroPlus, Quad.zero]
  | xoshiro32 t s =>
    simp only [Engine.isZero, beq_iff_eq] at h; subst h
    cases t <;> simp [Engine.scramble, xoshiroPlusPlus, xoshiroStarStar, xoshiroPlus, Quad.zero]
  | xoroshiro64 t s =>
    simp only [Engine.isZero, beq_iff_eq] at h; subst h
    cases t <;>
      simp [Engine.scramble, xoroshiroPlusPlus, xoroshiroStarStar, xoroshiroPlus, Pair.zero]
  | xoroshiro32 t s =>
    simp only [Engine.isZero, beq_iff_eq] at h; subst h
    cases t <;> simp [Engine.scramble, xoroshiroStarStar, xoroshiroStar, Pair.zero]

theorem Engine.advance_of_isZero (K : ConstTable) {e : Engine} (h : e.isZero = true) (n : Nat) :
    Engine.advance K n e = e := by
  induction n with
  | zero => rfl
  | succ n ih => rw [Engine.advance_succ, Engine.update_of_isZero K h, ih]

/-! ### Words -/

/-- What a register group that holds the words of an engine looks like (R24, R38). -/
theorem Engine.words_bounds (e : Engine) (i : Fin 4) :
    (e.words.get i).toNat < 2 ^ wordWidth e.variant ∧
      (wordCount e.variant ≤ i.val → e.words.get i = 0) := by
  cases e <;> rename_i t s <;> cases s <;> cases t <;> fin_cases i <;>
    simp [Engine.words, Quad.get, Engine.variant, wordWidth, wordCount] <;> omega

/-- Loading takes the low `W` bits of each of the first `N` words (R105, R110, R111). -/
theorem Engine.words_load (e : Engine) (q : Quad 64) (i : Fin 4) :
    (e.load q).words.get i =
      if i.val < wordCount e.variant
      then BitVec.ofNat 64 ((q.get i).toNat % 2 ^ wordWidth e.variant) else 0 := by
  obtain ⟨a, b, c, d⟩ := q
  cases e <;> rename_i t s <;> cases s <;> cases t <;> fin_cases i <;>
    simp [Engine.load, Engine.words, Quad.get, Engine.variant, wordWidth, wordCount,
      ← BitVec.toNat_inj] <;> omega

/-- The variant and the words are the whole engine (R24). -/
theorem Engine.eq_of_words {e e' : Engine} (hv : e.variant = e'.variant) (hw : e.words = e'.words) :
    e = e' := by
  have h {a b : BitVec 32} (h : a.setWidth 64 = b.setWidth 64) : a = b := by
    have := congrArg BitVec.toNat h
    simp at this
    exact BitVec.eq_of_toNat_eq (by omega)
  cases e with
  | xoshiro64 t s =>
    obtain ⟨a, b, c, d⟩ := s
    cases e' <;> rename_i t' s' <;> cases t <;> cases t' <;>
      simp_all [Engine.variant, Engine.words]
  | xoshiro32 t s =>
    obtain ⟨a, b, c, d⟩ := s
    cases e' <;> rename_i t' s' <;> cases t <;> cases t' <;>
      simp_all [Engine.variant, Engine.words] <;>
      · obtain ⟨h1, h2, h3, h4⟩ := hw
        rw [h h1, h h2, h h3, h h4]
  | xoroshiro64 t s =>
    obtain ⟨a, b⟩ := s
    cases e' <;> rename_i t' s' <;> cases t <;> cases t' <;>
      simp_all [Engine.variant, Engine.words]
  | xoroshiro32 t s =>
    obtain ⟨a, b⟩ := s
    cases e' <;> rename_i t' s' <;> cases t <;> cases t' <;>
      simp_all [Engine.variant, Engine.words] <;>
      · obtain ⟨h1, h2⟩ := hw
        rw [h h1, h h2]

end Sys2Proof.Machine
end

