-- ==== Sys2Proof/Laws/Memory.lean ====
section
/-! SUPPORT. The expression buffer: a write keeps the canonical form, a read after a write to the same
position gives the byte written, and a write leaves every other position alone. -/

namespace Sys2Proof.Machine

theorem Memory.wf_nil : Memory.wf [] := by simp [Memory.wf]

theorem Memory.wf_cons {q : Nat} {c : Byte} {m : Memory} :
    Memory.wf ((q, c) :: m) ↔ (∀ d ∈ m, q < d.1) ∧ c ≠ exprUnlisted ∧ Memory.wf m := by
  simp only [Memory.wf, List.pairwise_cons, List.mem_cons, forall_eq_or_imp]
  tauto

/-- An entry of the memory after a write is an old entry or the byte written. -/
theorem Memory.mem_write {m : Memory} {p : Nat} {b : Byte} {c : Host.Cell}
    (h : c ∈ Memory.write m p b) : c ∈ m ∨ (c = (p, b) ∧ b ≠ exprUnlisted) := by
  induction m with
  | nil => simp only [Memory.write] at h; split at h <;> simp_all
  | cons d m ih =>
    obtain ⟨q, x⟩ := d
    simp only [Memory.write] at h
    split_ifs at h <;> simp_all <;> tauto

/-- A write keeps the canonical form. -/
theorem Memory.write_wf {m : Memory} (h : Memory.wf m) (p : Nat) (b : Byte) :
    Memory.wf (Memory.write m p b) := by
  induction m with
  | nil => simp only [Memory.write]; split <;> simp_all [Memory.wf]
  | cons d m ih =>
    obtain ⟨q, x⟩ := d
    have h' := Memory.wf_cons.1 h
    obtain ⟨hlt, hx, hm⟩ := h'
    simp only [Memory.write]
    split_ifs with h1 h2 h3 h4
    · exact h
    · refine Memory.wf_cons.2 ⟨?_, h2, h⟩
      intro d hd
      rcases List.mem_cons.1 hd with rfl | hd
      · exact h1
      · exact h1.trans (hlt d hd)
    · exact hm
    · subst h3
      exact Memory.wf_cons.2 ⟨hlt, h4, hm⟩
    · refine Memory.wf_cons.2 ⟨?_, hx, ih hm⟩
      intro d hd
      rcases Memory.mem_write hd with hd | ⟨rfl, _⟩
      · exact hlt d hd
      · simp only; omega

/-- A position below every entry is unlisted. -/
theorem Memory.read_of_lt {m : Memory} {p : Nat} (h : ∀ c ∈ m, p < c.1) :
    Memory.read m p = exprUnlisted := by
  induction m with
  | nil => rfl
  | cons d m ih =>
    obtain ⟨q, x⟩ := d
    have hq : p < q := h (q, x) (by simp)
    simp only [Memory.read]
    rw [if_neg (by omega), ih fun c hc => h c (by simp [hc])]

/-- A read after a write to the same position gives the byte written. -/
theorem Memory.read_write_same {m : Memory} (h : Memory.wf m) (p : Nat) (b : Byte) :
    Memory.read (Memory.write m p b) p = b := by
  induction m with
  | nil => simp only [Memory.write]; split <;> simp_all [Memory.read]
  | cons d m ih =>
    obtain ⟨q, x⟩ := d
    obtain ⟨hlt, hx, hm⟩ := Memory.wf_cons.1 h
    simp only [Memory.write]
    split_ifs with h1 h2 h3 h4
    · rw [h2]
      refine Memory.read_of_lt ?_
      intro d hd
      rcases List.mem_cons.1 hd with rfl | hd
      · exact h1
      · exact h1.trans (hlt d hd)
    · simp [Memory.read]
    · rw [h4, h3]; exact Memory.read_of_lt hlt
    · simp [Memory.read]
    · simp only [Memory.read]; rw [if_neg (Ne.symm h3)]; exact ih hm

/-- A write leaves every other position alone. -/
theorem Memory.read_write_other {m : Memory} (p : Nat) (b : Byte) {k : Nat}
    (hk : k ≠ p) : Memory.read (Memory.write m p b) k = Memory.read m k := by
  induction m with
  | nil => simp only [Memory.write]; split <;> simp [Memory.read, hk.symm]
  | cons d m ih =>
    obtain ⟨q, x⟩ := d
    simp only [Memory.write]
    split_ifs with h1 h2 h3 h4
    · rfl
    · simp only [Memory.read, if_neg hk.symm]
    · subst h3; simp only [Memory.read, if_neg hk.symm]
    · subst h3; simp only [Memory.read, if_neg hk.symm]
    · simp only [Memory.read]; split <;> [rfl; exact ih]

/-- Two canonical memories that read alike everywhere are equal: equal memories are equal data. -/
theorem Memory.ext_of_wf {m m' : Memory} (h : Memory.wf m) (h' : Memory.wf m')
    (hr : ∀ p, Memory.read m p = Memory.read m' p) : m = m' := by
  induction m generalizing m' with
  | nil =>
    cases m' with
    | nil => rfl
    | cons d m' =>
      obtain ⟨q, x⟩ := d
      have := hr q
      obtain ⟨_, hx, _⟩ := Memory.wf_cons.1 h'
      simp [Memory.read] at this
      exact absurd this.symm hx
  | cons c m ih =>
    obtain ⟨p, y⟩ := c
    obtain ⟨hlt, hy, hm⟩ := Memory.wf_cons.1 h
    cases m' with
    | nil =>
      have := hr p
      simp [Memory.read] at this
      exact absurd this hy
    | cons d m' =>
      obtain ⟨q, x⟩ := d
      obtain ⟨hlt', hx, hm'⟩ := Memory.wf_cons.1 h'
      have hpq : p = q := by
        rcases Nat.lt_trichotomy p q with hl | he | hl
        · have h1 := hr p
          have h2 : Memory.read ((q, x) :: m') p = exprUnlisted := by
            refine Memory.read_of_lt ?_
            intro d hd
            rcases List.mem_cons.1 hd with rfl | hd
            · exact hl
            · exact hl.trans (hlt' d hd)
          rw [h2] at h1
          simp [Memory.read] at h1
          exact absurd h1 hy
        · exact he
        · have h1 := hr q
          have h2 : Memory.read ((p, y) :: m) q = exprUnlisted := by
            refine Memory.read_of_lt ?_
            intro d hd
            rcases List.mem_cons.1 hd with rfl | hd
            · exact hl
            · exact hl.trans (hlt d hd)
          rw [h2] at h1
          simp [Memory.read] at h1
          exact absurd h1.symm hx
      subst hpq
      have hxy : y = x := by simpa [Memory.read] using hr p
      subst hxy
      congr 1
      refine ih hm hm' fun k => ?_
      by_cases hk : p = k
      · subst hk; rw [Memory.read_of_lt hlt, Memory.read_of_lt hlt']
      · simpa [Memory.read, hk] using hr k

end Sys2Proof.Machine
end

