-- ==== Sys2Proof/Laws/Exec.lean ====
section
/-! SUPPORT. What each command does, once, at any parameters: every command answers a next state, `effect`,
and one equation per command says which; `exec` and `step` are the case of this hardware. Frames and invariants are read off these equations. `(rfl)` in brackets keeps `simp`
from using an equation by unfolding alone: the kernel would then compare states field by field and unfold
`expand` on a variable. -/

namespace Sys2Proof.Machine

/-- The next state a command answers at the parameters `P`. -/
def effect (P : Params) (i : Instr) (s : State) : State :=
  match execWith P i s with
  | .next t => t
  | .fault _ => s
  | .refused _ => s

/-- A command never faults and is never refused, whatever the parameters (R220, R221). -/
theorem execWith_eq_effect (P : Params) (i : Instr) (s : State) :
    execWith P i s = .next (effect P i s) := by
  have answers : ∃ t, execWith P i s = .next t := by
    cases i with
    | putc b => simp only [execWith, putcWith]; split <;> exact ⟨_, rfl⟩
    | parse => simp only [execWith, execParse]; split <;> exact ⟨_, rfl⟩
    | sample => simp only [execWith, sampleWith]; split <;> exact ⟨_, rfl⟩
    | dmin => simp only [execWith, execDmin]; split <;> exact ⟨_, rfl⟩
    | dmax => simp only [execWith, execDmax]; split <;> exact ⟨_, rfl⟩
    | _ => exact ⟨_, rfl⟩
  obtain ⟨t, h⟩ := answers
  simp only [effect, h]

/-! ### The values of this hardware's parameters -/

@[simp] theorem hardware_const : hardware.const = constTable := (rfl)
@[simp] theorem hardware_expand : hardware.expand = expand := (rfl)
@[simp] theorem hardware_draw : hardware.draw = draw := (rfl)
@[simp] theorem hardware_exprMax : hardware.exprMax = 64 := (rfl)
@[simp] theorem hardware_byteOrder : hardware.byteOrder = .little := (rfl)

/-- `exec` is the machine at the parameters of this hardware (R8, R42). -/
theorem exec_eq_execWith : exec = execWith hardware := by
  funext i s
  cases i <;> rfl

theorem step_eq_stepWith : step = stepWith hardware := by
  funext s
  rw [step, stepWith, exec_eq_execWith]

theorem exec_eq_effect (i : Instr) (s : State) : exec i s = .next (effect hardware i s) := by
  rw [exec_eq_execWith, execWith_eq_effect]

/-- From a next state to `effect`. -/
theorem execWith_next_iff (P : Params) (i : Instr) (s t : State) :
    execWith P i s = .next t ↔ t = effect P i s := by
  rw [execWith_eq_effect]; constructor
  · intro h; injection h with h; exact h.symm
  · rintro rfl; rfl

theorem exec_next_iff (i : Instr) (s t : State) : exec i s = .next t ↔ t = effect hardware i s := by
  rw [exec_eq_execWith, execWith_next_iff]

variable (P : Params) (s : State)

theorem effect_nop : effect P .nop s = s := (rfl)

theorem effect_clr : effect P .clr s =
    ((s.setEngine (Engine.zero s.engine.variant)).setInit false).clearError := (rfl)

theorem effect_seed1 : effect P .seed1 s =
    ((s.setEngine (s.engine.seeded P.const s.warmup (seedChain P.expand s.arg0))).setInit
      true).clearError := (rfl)

theorem effect_seed2 : effect P .seed2 s =
    ((s.setEngine (s.engine.seeded P.const s.warmup (seedChains P.expand s.arg0 s.arg1))).setInit
      true).clearError := (rfl)

theorem effect_ldst : effect P .ldst s =
    ((s.setEngine (s.engine.load s.sin)).setInit true).clearError := (rfl)

theorem effect_rdst : effect P .rdst s = (s.setSout s.engine.words).clearError := (rfl)

theorem effect_next : effect P .next s =
    ((s.setEngine (s.engine.update P.const)).setRes (s.engine.scramble P.const)).clearError :=
  (rfl)

theorem effect_gmin : effect P .gmin s = (s.setRes 0).clearError := (rfl)

theorem effect_gmax : effect P .gmax s = (s.setRes s.engine.maxWord).clearError := (rfl)

theorem effect_xpnd : effect P .xpnd s = (s.setRes (P.expand s.arg0)).clearError := (rfl)

theorem effect_xclr : effect P .xclr s = (s.setExlen 0).clearError := (rfl)

theorem effect_putc (b : Byte) : effect P (.putc b) s =
    if s.exlen.toNat = P.exprMax then s.setError .full
    else ((s.putByte s.exlen.toNat b).setExlen (s.exlen + 1)).clearError := by
  by_cases h : s.exlen.toNat = P.exprMax <;> simp [effect, execWith, putcWith, h]

/-- What `PARSE` makes of the parser's answer. -/
def parseEffect (r : Except ErrCode DiceExpr) : State :=
  match r with
  | .ok d =>
    (s.setTriple (BitVec.ofNat 32 d.count) (BitVec.ofNat 32 d.sides)
      (BitVec.ofInt 32 d.modifier) true).clearError
  | .error c => (s.setTriple 0 0 0 false).setError c

theorem effect_parse : effect P .parse s = parseEffect s (parseFn s.source) := by
  simp only [effect, execWith, execParse]
  cases parseFn s.source <;> rfl

theorem effect_lddx : effect P .lddx s =
    (s.setTriple s.lddxCount s.lddxSides s.lddxModifier true).clearError := (rfl)

/-- What `SAMPLE` rolls: the accumulator and the engine after the last die. -/
def sampleRoll : Reg × Engine :=
  rollDice P.const P.draw s.sides.toNat s.count.toNat s.engine 0

theorem effect_sample : effect P .sample s =
    if s.diceReady then
      ((s.setEngine (sampleRoll P s).2).setRes
        ((sampleRoll P s).1 + s.modifier.signExtend 64)).clearError
    else s.setError .dice := by
  by_cases h : s.diceReady = true <;> simp [effect, execWith, sampleWith, h, sampleRoll]

theorem effect_dmin : effect P .dmin s =
    if s.dvalid then (s.setRes (s.count.signExtend 64 + s.modifier.signExtend 64)).clearError
    else s.setError .dice := by
  by_cases h : s.dvalid = true <;> simp [effect, execWith, execDmin, h]

theorem effect_dmax : effect P .dmax s =
    if s.dvalid then
      (s.setRes (s.count.signExtend 64 * s.sides.signExtend 64
        + s.modifier.signExtend 64)).clearError
    else s.setError .dice := by
  by_cases h : s.dvalid = true <;> simp [effect, execWith, execDmax, h]

/-- The roll keeps the variant and advances by the number of dice (R206). -/
theorem rollDice_engine (K : ConstTable) (dr : Nat → Nat → Nat) (sides n : Nat) (e : Engine)
    (acc : Reg) : (rollDice K dr sides n e acc).2 = Engine.advance K n e := by
  induction n generalizing e acc with
  | zero => rfl
  | succ n ih => rw [rollDice, ih]; rfl

theorem sampleRoll_engine : (sampleRoll P s).2 = Engine.advance P.const s.count.toNat s.engine :=
  rollDice_engine ..

end Sys2Proof.Machine
end

