-- ==== Sys2Proof/Laws/Parser.lean ====
section
/-! SUPPORT. The scan of the dice parser against splittings of the string (spec/43_dice_sampler.md R181,
R182, R186 to R188): one lemma turns a splitting into what the scan takes and drops, one says the
converse. -/

namespace Sys2Proof.Machine

/-- The list does not start with a byte of the class `p`. -/
abbrev StopsAt (p : Byte → Bool) (l : List Byte) : Prop := ∀ b rest, l = b :: rest → p b = false

/-- A run of one class in front of something outside it is what the scan takes; the rest is left. -/
theorem scan_of_split {p : Byte → Bool} {run rest : List Byte} (hrun : ∀ b ∈ run, p b = true)
    (hrest : StopsAt p rest) :
    (run ++ rest).takeWhile p = run ∧ (run ++ rest).dropWhile p = rest := by
  induction run with
  | nil =>
    cases rest with
    | nil => simp
    | cons b r => simp [hrest b r rfl]
  | cons b run ih =>
    have hb : p b = true := hrun b (by simp)
    obtain ⟨h1, h2⟩ := ih fun c hc => hrun c (by simp [hc])
    simp [hb, h1, h2]

/-- What the scan takes is of the class, what it leaves does not start in it, and together they are the
string. -/
theorem split_of_scan (p : Byte → Bool) (e : List Byte) :
    e = e.takeWhile p ++ e.dropWhile p ∧ (∀ b ∈ e.takeWhile p, p b = true) ∧
      StopsAt p (e.dropWhile p) := by
  refine ⟨(List.takeWhile_append_dropWhile ..).symm, fun b hb => ?_, fun b r h => ?_⟩
  · induction e with
    | nil => simp at hb
    | cons c e ih =>
      by_cases hc : p c = true
      · simp only [List.takeWhile_cons, hc, if_true, List.mem_cons] at hb
        rcases hb with rfl | hb
        · exact hc
        · exact ih hb
      · simp [hc] at hb
  · induction e with
    | nil => simp at h
    | cons c e ih =>
      by_cases hc : p c = true
      · exact ih (by simpa [List.dropWhile_cons, hc] using h)
      · simp only [List.dropWhile_cons, hc] at h
        simp only [Bool.false_eq_true, if_false, List.cons.injEq] at h
        rw [← h.1]; simpa using hc

/-- The value of a run of digits, read from the left or weighed by place (R186). -/
theorem decimal_eq_placeValue (l : List Byte) : decimal l = placeValue l := by
  have h (acc : Nat) : l.foldl (fun n b => 10 * n + digitVal b) acc
      = acc * 10 ^ l.length + placeValue l := by
    induction l generalizing acc with
    | nil => simp [placeValue]
    | cons b l ih =>
      rw [List.foldl_cons, ih, placeValue, List.length_cons, Nat.pow_succ, digitVal]
      ring
  simpa [decimal] using h 0

/-- The parser's classes are those of the grammar (R181). -/
theorem isSpace_iff (b : Byte) : isSpace b = true ↔ SpaceByte b := by
  simp only [isSpace, SpaceByte, Bool.or_eq_true, beq_iff_eq, or_assoc]

theorem isDigit_iff (b : Byte) : isDigit b = true ↔ DigitByte b := by simp [isDigit, DigitByte]

theorem spaces_iff (l : List Byte) : Spaces l ↔ ∀ b ∈ l, isSpace b = true := by
  simp only [Spaces, isSpace_iff]

theorem literal_iff (l : List Byte) : Literal l ↔ l ≠ [] ∧ ∀ b ∈ l, isDigit b = true := by
  simp only [Literal, isDigit_iff]

theorem noDigitFirst_iff (l : List Byte) : NoDigitFirst l ↔ StopsAt isDigit l := by
  simp only [NoDigitFirst, StopsAt, Bool.eq_false_iff, ne_eq, isDigit_iff]

/-- No byte is of two of the classes (R181). -/
theorem isSpace_of_isDigit {b : Byte} (h : isDigit b = true) : isSpace b = false := by
  revert h; revert b; decide

theorem isDigit_sep : isDigit 0x64#8 = false := by decide

theorem isSep_iff (b : Byte) : isSep b = true ↔ b = 0x64#8 := by simp [isSep]

theorem isSign_iff (b : Byte) : isSign b = true ↔ b = 0x2B#8 ∨ b = 0x2D#8 := by simp [isSign]

theorem isSpace_of_isSign {b : Byte} (h : isSign b = true) : isSpace b = false := by
  revert h; revert b; decide

/-- A literal does not start with white space, whatever follows it. -/
theorem Literal.stopsAtSpace {run rest : List Byte} (h : Literal run) :
    StopsAt isSpace (run ++ rest) := by
  obtain ⟨hne, hd⟩ := (literal_iff run).1 h
  cases run with
  | nil => exact absurd rfl hne
  | cons b run =>
    intro c r hc
    simp only [List.cons_append, List.cons.injEq] at hc
    rw [← hc.1]
    exact isSpace_of_isDigit (hd b (by simp))

/-- `takeWhile` gives a literal exactly when it gives something. -/
theorem literal_takeWhile {e : List Byte} (h : (e.takeWhile isDigit).isEmpty = false) :
    Literal (e.takeWhile isDigit) :=
  (literal_iff _).2 ⟨by intro h'; simp [h'] at h, (split_of_scan isDigit e).2.1⟩

/-- The range checks and the sign, whichever way the group took part (R187, R188). -/
theorem rangeCheck_eq (c d : Nat) (g : Option (Bool × Nat)) : rangeCheck c d g =
    if literalMax < c ∨ literalMax < d ∨ literalMax < groupLiteral g then .error .range
    else .ok ⟨c, d, groupValue g⟩ := by
  rcases g with _ | ⟨_ | _, m⟩ <;> simp [rangeCheck, groupLiteral, groupValue] <;> rfl

end Sys2Proof.Machine
end

