-- ==== Sys2Proof/Laws/PerInstr.lean ====
section
/-! SUPPORT. What holds of every command as syntax, one lemma per constructor (spec/30_encoding.md R70,
R71, R74). -/

namespace Sys2Proof.Laws.EncodingFits

/-- The encoding fits the format of R70: nothing above bit 15, `op` and `imm8` in their fields, the word
is that of the opcode table's row, and the value is a legal one (R82). -/
def Statement (i : Instr) : Prop :=
  (encode i).toNat < 2 ^ 16 ∧ opField (encode i) = opcode i ∧ immField (encode i) = immediate i ∧
    (encode i).setWidth 32 &&& tableMask i = tableMatch i ∧ commandWordOk (encode i) = true

theorem nop : Statement .nop := by unfold Statement; decide
theorem clr : Statement .clr := by unfold Statement; decide
theorem seed1 : Statement .seed1 := by unfold Statement; decide
theorem seed2 : Statement .seed2 := by unfold Statement; decide
theorem ldst : Statement .ldst := by unfold Statement; decide
theorem rdst : Statement .rdst := by unfold Statement; decide
theorem next : Statement .next := by unfold Statement; decide
theorem gmin : Statement .gmin := by unfold Statement; decide
theorem gmax : Statement .gmax := by unfold Statement; decide
theorem xpnd : Statement .xpnd := by unfold Statement; decide
theorem xclr : Statement .xclr := by unfold Statement; decide
theorem putc (imm8 : Byte) : Statement (.putc imm8) := by unfold Statement; revert imm8; decide
theorem parse : Statement .parse := by unfold Statement; decide
theorem lddx : Statement .lddx := by unfold Statement; decide
theorem sample : Statement .sample := by unfold Statement; decide
theorem dmin : Statement .dmin := by unfold Statement; decide
theorem dmax : Statement .dmax := by unfold Statement; decide

end Sys2Proof.Laws.EncodingFits
end

