-- ==== Sys2Proof/Laws/Port.lean ====
section
/-! SUPPORT. The host port: what one event does, the events that are accepted, and what every step keeps
(spec/10_state.md R28, R29; spec/20_memory.md R52, R55; spec/70_reset_and_hazards.md R250, R251). -/

namespace Sys2Proof.Machine

variable (P : Params)

theorem stepWith_of_nil {s : State} (h : s.host = []) : stepWith P s = .next s := by
  simp [stepWith, stepOn, h]

theorem stepWith_of_cons {s : State} {ev : HostEvent} {rest : List HostEvent}
    (h : s.host = ev :: rest) :
    stepWith P s = perform P (execWith P) ev (s.setHost rest) := by simp [stepWith, stepOn, h]

theorem step_of_nil {s : State} (h : s.host = []) : step s = .next s := by simp [step, stepOn, h]

theorem step_of_cons {s : State} {ev : HostEvent} {rest : List HostEvent} (h : s.host = ev :: rest) :
    step s = perform hardware exec ev (s.setHost rest) := by simp [step, stepOn, h]

theorem runCommand_of_ok {v : Reg} {i : Instr} (h : decode v = .ok i) (s : State) :
    runCommand (execWith P) v s = .next (effect P i s) := by
  rw [runCommand, h, ← execWith_eq_effect]

/-- An illegal value reports `E_ILL`, whatever the commands do (R82). -/
theorem runCommand_of_error (run : Executor) {v : Reg} {e : Illegal} (h : decode v = .error e)
    (s : State) : runCommand run v s = .next (s.setError .ill) := by rw [runCommand, h]; rfl

/-- What a register write can do: run a command, report an illegal word, replace one operand register, or
nothing (R28, R29). -/
theorem regWrite_cases (idx : BitVec 6) (v : Reg) (s : State) :
    (∃ i, decode v = .ok i ∧ regAt idx = .cmd ∧
      regWrite (execWith P) idx v s = .next (effect P i s)) ∨
    (∃ e, decode v = .error e ∧ regAt idx = .cmd ∧
      regWrite (execWith P) idx v s = .next (s.setError .ill)) ∨
    (regAt idx = .arg0 ∧ regWrite (execWith P) idx v s = .next (s.setArg0 v)) ∨
    (regAt idx = .arg1 ∧ regWrite (execWith P) idx v s = .next (s.setArg1 v)) ∨
    (∃ i, regAt idx = .sin i ∧ regWrite (execWith P) idx v s = .next (s.setSin i v)) ∨
    regWrite (execWith P) idx v s = .next s := by
  unfold regWrite
  split
  · rename_i h
    cases hd : decode v with
    | ok i => exact .inl ⟨i, rfl, h, runCommand_of_ok P hd s⟩
    | error e => exact .inr (.inl ⟨e, rfl, h, runCommand_of_error _ hd s⟩)
  · rename_i h; exact .inr (.inr (.inl ⟨h, rfl⟩))
  · rename_i h; exact .inr (.inr (.inr (.inl ⟨h, rfl⟩)))
  · rename_i i h; exact .inr (.inr (.inr (.inr (.inl ⟨i, h, rfl⟩))))
  all_goals exact .inr (.inr (.inr (.inr (.inr rfl))))

/-- An access inside the block, and only that, has a register (R52, R55). -/
theorem busRegister_eq (offset size : Nat) : busRegister offset size =
    if busAccessOk offset size = true then some (BitVec.ofNat 6 (offset / 8)) else none := by
  simp [busRegister, busAccessOk, and_assoc]

theorem busRegister_of_index (idx : BitVec 6) : busRegister (8 * idx.toNat) 8 = some idx := by
  have := idx.isLt
  rw [busRegister, if_pos ⟨rfl, by omega, by omega⟩]
  congr 1
  apply BitVec.eq_of_toNat_eq
  simp

/-- The strap values 0 to 10 select the variant of that code, the others none (R21). -/
theorem strapVariant_of_ok {x : BitVec 4} (h : strapOk x = true) :
    ∃ v, vselCode v = x ∧ strapVariant x = some v := by
  revert h x
  have h (x : BitVec 4) : strapOk x = true → (strapVariant x).map vselCode = some x := by
    revert x; decide
  intro x hx
  obtain ⟨v, hv, hx⟩ := Option.map_eq_some_iff.1 (h x hx)
  exact ⟨v, hx, hv⟩

theorem strapVariant_of_not_ok {x : BitVec 4} (h : strapOk x = false) : strapVariant x = none := by
  revert h x; decide

/-- An accepted event gives a next state: a register write, a read, or a reset; any other is refused. -/
theorem perform_cases (run : Executor) (ev : HostEvent) (s : State) :
    (eventOk ev = true ∧ isReset ev = false ∧ ∃ idx v, perform P run ev s = regWrite run idx v s) ∨
    (eventOk ev = true ∧ isReset ev = false ∧ ∃ v, perform P run ev s = .next (s.pushRead v)) ∨
    (eventOk ev = true ∧ isReset ev = true ∧ ∃ v, perform P run ev s = .next (platformReset v s)) ∨
    (eventOk ev = false ∧ ∃ r, perform P run ev s = .refused r) := by
  cases ev with
  | write idx v => exact .inl ⟨rfl, rfl, idx, v, rfl⟩
  | read idx => exact .inr (.inl ⟨rfl, rfl, _, rfl⟩)
  | busWrite offset size v =>
    cases h : busAccessOk offset size with
    | true =>
      refine .inl ⟨h, rfl, BitVec.ofNat 6 (offset / 8), v, ?_⟩
      simp only [perform, busRegister_eq, h, if_true]
    | false =>
      refine .inr (.inr (.inr ⟨h, .notARegisterAccess offset size, ?_⟩))
      simp [perform, busRegister_eq, h]
  | busRead offset size =>
    cases h : busAccessOk offset size with
    | true =>
      refine .inr (.inl ⟨h, rfl, s.regRead P (BitVec.ofNat 6 (offset / 8)), ?_⟩)
      simp only [perform, busRegister_eq, h, if_true]
    | false =>
      refine .inr (.inr (.inr ⟨h, .notARegisterAccess offset size, ?_⟩))
      simp [perform, busRegister_eq, h]
  | reset vsel =>
    cases h : strapOk vsel with
    | true =>
      obtain ⟨v, -, hv⟩ := strapVariant_of_ok h
      exact .inr (.inr (.inl ⟨h, rfl, v, by simp only [perform, hv]⟩))
    | false =>
      exact .inr (.inr (.inr ⟨h, .illegalStrap vsel, by
        simp only [perform, strapVariant_of_not_ok h]⟩))

/-- A register write always gives a next state. -/
theorem regWrite_next (idx : BitVec 6) (v : Reg) (s : State) :
    ∃ t, regWrite (execWith P) idx v s = .next t := by
  rcases regWrite_cases P idx v s with ⟨_, _, _, h⟩ | ⟨_, _, _, h⟩ | ⟨_, h⟩ | ⟨_, h⟩ | ⟨_, _, h⟩ | h <;>
    exact ⟨_, h⟩

end Sys2Proof.Machine
end

