-- ==== Sys2Proof/Laws/Sampler.lean ====
section
/-! SUPPORT. The roll as a sum over the output words, and bounds on sums and on 32-bit triples
(spec/43_dice_sampler.md R201, R202, R204, R205). -/

namespace Sys2Proof.Machine

theorem diceReady_iff (s : State) :
    s.diceReady = true ↔ s.dvalid = true ∧ 1 ≤ s.count.toInt ∧ 1 ≤ s.sides.toInt := by
  simp [State.diceReady, and_assoc]

/-- The accumulator after the roll: the draws of the first `n` output words, added up (R205). -/
theorem rollDice_fst (K : ConstTable) (dr : Nat → Nat → Nat) (sides n : Nat) (e : Engine)
    (acc : Reg) : (rollDice K dr sides n e acc).1 =
      acc + BitVec.ofNat 64 (((List.range n).map fun k => dr (e.outWord K k).toNat sides).sum) := by
  induction n generalizing e acc with
  | zero => simp [rollDice]
  | succ n ih =>
    rw [rollDice, ih, List.range_succ_eq_map, List.map_cons, List.map_map, List.sum_cons,
      BitVec.ofNat_add, BitVec.add_assoc]
    rfl

/-- A sum of `n` terms, each within bounds. -/
theorem sum_range_bounds (f : Nat → Nat) (n lo hi : Nat) (h : ∀ k, lo ≤ f k ∧ f k ≤ hi) :
    n * lo ≤ ((List.range n).map f).sum ∧ ((List.range n).map f).sum ≤ n * hi := by
  induction n with
  | zero => simp
  | succ n ih =>
    rw [List.range_succ]
    simp only [List.map_append, List.sum_append, List.map_cons, List.sum_cons, List.map_nil,
      List.sum_nil]
    have := h n
    rw [Nat.succ_mul, Nat.succ_mul]
    omega

/-- The default draw meets the obligation on a draw (R201, R202). -/
theorem draw_ok (W : Nat) : DrawOk W draw := by
  intro w d _ hd _
  have := Nat.mod_lt w hd
  simp only [draw]
  omega

/-- An output word has `W` bits (R140). -/
theorem Engine.scramble_lt (K : ConstTable) (e : Engine) :
    (e.scramble K).toNat < 2 ^ wordWidth e.variant := by
  rcases e with ⟨t, s⟩ | ⟨t, s⟩ | ⟨t, s⟩ | ⟨t, s⟩ <;> cases t <;>
    simp [Engine.scramble, Engine.variant, wordWidth] <;> omega

/-- Every word that a roll draws from has `W` bits (R201). -/
theorem Engine.outWord_lt (K : ConstTable) (e : Engine) (k : Nat) :
    (e.outWord K k).toNat < 2 ^ wordWidth e.variant := by
  have := Engine.scramble_lt K (Engine.advance K k e)
  rwa [Engine.variant_advance] at this

/-- A positive 32-bit integer is its own natural number. -/
theorem toNat_of_pos {x : BitVec 32} (h : 1 ≤ x.toInt) : x.toInt = x.toNat ∧ x.toNat < 2 ^ 31 := by
  have := BitVec.toInt_eq_toNat_cond x
  split at this <;> omega

/-- The sign-extended value of a 32-bit integer, and its range. -/
theorem toInt_signExtend (x : BitVec 32) : (x.signExtend 64).toInt = x.toInt ∧
    -2147483648 ≤ x.toInt ∧ x.toInt ≤ 2147483647 := by
  have h1 := BitVec.toInt_lt (x := x)
  have h2 := BitVec.le_toInt (x := x)
  exact ⟨BitVec.toInt_signExtend_of_le (by omega), by omega, by omega⟩

end Sys2Proof.Machine
end

