-- ==== Sys2Proof/Laws/Update.lean ====
section
/-! SUPPORT. The two updates are injective for legal amounts, and the states of one variant are finitely
many (spec/41_engine_next.md R141, R142, R156). -/

namespace Sys2Proof.Machine

/-- The xoshiro update is injective (R141, R156). -/
theorem xoshiroUpdate_injective {w sh rs : Nat} (hsh : 0 < sh) (hrs : rs < w) :
    Function.Injective fun s : Quad w => xoshiroUpdate sh rs s := by
  rintro ⟨a, b, c, d⟩ ⟨a', b', c', d'⟩ h
  simp only [xoshiroUpdate, Quad.mk.injEq] at h
  obtain ⟨h0, h1, h2, h3⟩ := h
  have e3 : d ^^^ b = d' ^^^ b' := rotl_injective hrs h3
  rw [e3] at h0
  obtain rfl : a = a' := (BitVec.xor_left_inj _).1 h0
  have e1 : b ^^^ c = b' ^^^ c' := by
    rw [← BitVec.xor_assoc, ← BitVec.xor_assoc] at h1
    exact (BitVec.xor_left_inj _).1 h1
  have e2 : c ^^^ b <<< sh = c' ^^^ b' <<< sh := by
    refine (BitVec.xor_left_inj a).1 ?_
    rw [BitVec.xor_assoc, BitVec.xor_comm _ a, ← BitVec.xor_assoc, h2, BitVec.xor_assoc,
      BitVec.xor_comm a, ← BitVec.xor_assoc]
  have cancel (x y z : BitVec w) : (x ^^^ y) ^^^ (y ^^^ z) = x ^^^ z := by
    rw [BitVec.xor_assoc, ← BitVec.xor_assoc y]; simp
  obtain rfl : b = b' := by
    refine xor_shiftLeft_injective (k := sh) hsh ?_
    have := congrArg₂ (· ^^^ ·) e1 e2
    simpa only [cancel] using this
  rw [(BitVec.xor_right_inj _).1 e1, (BitVec.xor_left_inj _).1 e3]

/-- The xoroshiro update is injective (R142, R156). -/
theorem xoroshiroUpdate_injective {w a b c : Nat} (ha : a < w) (hc : c < w) :
    Function.Injective fun s : Pair w => xoroshiroUpdate a b c s := by
  rintro ⟨x, y⟩ ⟨x', y'⟩ h
  simp only [xoroshiroUpdate, Pair.mk.injEq] at h
  obtain ⟨h0, h1⟩ := h
  have e : y ^^^ x = y' ^^^ x' := rotl_injective hc h1
  rw [e, BitVec.xor_left_inj, BitVec.xor_left_inj] at h0
  obtain rfl : x = x' := rotl_injective ha h0
  rw [(BitVec.xor_left_inj _).1 e]

/-- Finitely many states of a variant. -/
theorem Engine.finite_variant (v : Variant) : Finite {e : Engine // e.variant = v} := by
  refine Finite.of_injective (fun e : {e : Engine // e.variant = v} =>
    (e.1.words.x0.toFin, e.1.words.x1.toFin, e.1.words.x2.toFin, e.1.words.x3.toFin)) ?_
  rintro ⟨e, he⟩ ⟨e', he'⟩ h
  simp only [Prod.mk.injEq, BitVec.toFin_inj] at h
  obtain ⟨h0, h1, h2, h3⟩ := h
  have hw : e.words = e'.words := by
    generalize e.words = q at *
    generalize e'.words = q' at *
    cases q; cases q'; simp_all
  exact Subtype.ext (Engine.eq_of_words (he.trans he'.symm) hw)

end Sys2Proof.Machine
end

