-- ==== Sys2Proof/Tests/Slice0.lean ====
section
/-! SUPPORT. Tests. Expected values come from the spec: the encodings of spec/30_encoding.md R70, R74, R93,
the worked values of spec/95_test_vectors.md (the section stands at each test). Then the smoke tests of
WellFormed, and for every statement with hypotheses a witness that meets them, at the boundary values of
its clauses. -/

namespace Sys2Proof.Tests

open Sys2Proof.Machine

/-- The next state, if there is one. -/
def after (o : Host.Outcome State Fault Refusal) : Option State :=
  match o with
  | .next t => some t
  | .fault _ => none
  | .refused _ => none

/-- The refusal, if there is one. -/
def refusalOf (o : Host.Outcome State Fault Refusal) : Option Refusal :=
  match o with
  | .next _ => none
  | .fault _ => none
  | .refused r => some r

/-- Just out of reset, `WARMUP = 1`. -/
def fresh (v : Variant) : State := State.resetFor v .one

/-- The engine of a variant with the words of `q` (script `setstate`). -/
def loaded (v : Variant) (q : Quad 64) : State :=
  { fresh v with engine := (Engine.zero v).load q, init := true }

/-- Reset, then the triple. -/
def diced (v : Variant) (c d m : BitVec 32) : State :=
  { fresh v with count := c, sides := d, modifier := m, dvalid := true }

/-- Reset, then the bytes put into the buffer one by one. -/
def typed (v : Variant) (bytes : List Byte) : State :=
  bytes.foldl (fun s b => (s.putByte s.exlen.toNat b).setExlen (s.exlen + 1)) (fresh v)

/-- The host is about to do one thing. -/
def withEvent (s : State) (ev : HostEvent) : State := s.setHost [ev]

/-- The block built with another capacity of the expression buffer (R6). -/
def built (n : Nat) : Params := { hardware with exprMax := n }

/-! ### Decoding: words written out from the format and the table of R74 -/

theorem test_decode_engine_words :
    decode 0x00000000 = .ok .nop ∧ decode 0x00000001 = .ok .clr ∧ decode 0x00000002 = .ok .seed1 ∧
    decode 0x00000003 = .ok .seed2 ∧ decode 0x00000004 = .ok .ldst ∧ decode 0x00000005 = .ok .rdst ∧
    decode 0x00000006 = .ok .next ∧ decode 0x00000007 = .ok .gmin ∧ decode 0x00000008 = .ok .gmax ∧
    decode 0x00000009 = .ok .xpnd := by decide

theorem test_decode_dice_words :
    decode 0x00000010 = .ok .xclr ∧ decode 0x00000011 = .ok (.putc 0x00) ∧
    decode 0x0000FF11 = .ok (.putc 0xFF) ∧ decode 0x00001611 = .ok (.putc 0x16) ∧
    decode 0x00006411 = .ok (.putc 0x64) ∧ decode 0x00000012 = .ok .parse ∧
    decode 0x00000013 = .ok .lddx ∧ decode 0x00000014 = .ok .sample ∧
    decode 0x00000015 = .ok .dmin ∧ decode 0x00000016 = .ok .dmax := by decide

/-- 95 section 6: the illegal values. -/
theorem test_decode_rejects :
    decode 0x0000000000000106 = .error .immediate ∧ decode 0x0000000000000112 = .error .immediate ∧
    decode 0x0000000000000100 = .error .immediate ∧ decode 0x0000000000010006 = .error .reservedBits ∧
    decode 0x0000000100000006 = .error .highBits ∧ decode 0x8000000000000006 = .error .highBits ∧
    decode 0x000000000000000A = .error .opcode ∧ decode 0x000000000000000F = .error .opcode ∧
    decode 0x0000000000000017 = .error .opcode ∧ decode 0x00000000000000FF = .error .opcode ∧
    decode 0xFFFFFFFFFFFFFFFF = .error .highBits := by decide

theorem test_encode_words :
    encode .next = 0x06 ∧ encode .xclr = 0x10 ∧ encode (.putc 0x39) = 0x3911 ∧
    encode .dmax = 0x16 := by decide

theorem test_decodeTableWord :
    decodeTableWord 32 0x00006411 = some (.putc 0x64) ∧ decodeTableWord 32 0x0000000A = none := by
  decide

/-- The step runs the placed command first: 95 section 6, `PUTC 0x64` after reset. -/
theorem test_withFetchWord :
    (after (step (State.reset.withFetchWord 32 0x00006411))).map
      (fun t => (t.exlen, t.byteAt 0, t.host)) = some (1, 0x64, []) := by decide

/-! ### WellFormed: one ill-formed term for each check, and the decoder or the step refuses it -/

theorem smoke_commandWordOk :
    commandWordOk 0x16 = true ∧ commandWordOk 0xFF11 = true ∧
    commandWordOk 0x0000000100000006 = false ∧ commandWordOk 0x0000000000010006 = false ∧
    commandWordOk 0x000000000000000A = false ∧ commandWordOk 0x0000000000000106 = false := by decide

theorem smoke_opcodeAssigned :
    opcodeAssigned 0x09 = true ∧ opcodeAssigned 0x0A = false ∧ opcodeAssigned 0x0F = false ∧
    opcodeAssigned 0x10 = true ∧ opcodeAssigned 0x16 = true ∧ opcodeAssigned 0x17 = false := by decide

theorem smoke_strapOk : strapOk 10 = true ∧ strapOk 11 = false ∧
    refusalOf (step (withEvent (fresh .x256pp) (.reset 11))) = some (.illegalStrap 11) := by decide

theorem smoke_busAccessOk :
    busAccessOk 504 8 = true ∧ busAccessOk 512 8 = false ∧ busAccessOk 4 8 = false ∧
    busAccessOk 0 4 = false ∧
    refusalOf (step (withEvent (fresh .x256pp) (.busRead 512 8))) =
      some (.notARegisterAccess 512 8) ∧
    refusalOf (step (withEvent (fresh .x256pp) (.busWrite 16 4 7))) =
      some (.notARegisterAccess 16 4) := by decide

theorem smoke_constTableOk :
    constTableOk constTable = true ∧ constTableOk publishedConstTable = true ∧
    constTableOk (fun _ => {}) = false ∧ amountOk 64 0 = false ∧ amountOk 64 64 = false ∧
    xoshiroAmountsOk 32 { sh := 32, rs := 11 } = false ∧
    xoroshiroAmountsOk 32 { a := 26, b := 0, c := 13 } = false := by decide

theorem smoke_exprMaxOk :
    exprMaxOk 0 = false ∧ exprMaxOk 1 = true ∧ exprMaxOk 255 = true ∧ exprMaxOk 256 = false := by decide

/-! ### One step of each command -/

/-- 95 section 6. -/
theorem test_nop_keeps_the_error :
    exec .nop ((fresh .xr128pp).setError .ill) = .next ((fresh .xr128pp).setError .ill) := rfl

/-- 95 section 4.5. -/
theorem test_clr : (after (exec .clr { loaded .x256pp ⟨1, 2, 3, 4⟩ with res := 7 })).map
    (fun t => (t.statusWord, t.res, t.engine)) =
      some (0x02, 7, .xoshiro64 .plusPlus ⟨0, 0, 0, 0⟩) := by decide

/-- 95 section 4.1, `X256PP`, `WARMUP = 1`. -/
theorem test_seed1_64 : (after (exec .seed1 { fresh .x256pp with arg0 := 42 })).map
    (fun t => (t.engine.words, t.statusWord)) = some (⟨0x2B57E1709A274702, 0x8926779892DB63D7,
      0x2BB3470213C311D3, 0x8532F2D01A6AD6B9⟩, 0x01) := by decide

/-- 95 section 4.1, `XR64SS`, `WARMUP = 2`. -/
theorem test_seed1_32 : (after (exec .seed1 { fresh .xr64ss with arg0 := 42, warmup := .two })).map
    (fun t => t.engine.words) = some ⟨0xFB3AA438, 0xF74E917D, 0, 0⟩ := by decide

/-- 95 section 4.3, `X128SS`, `WARMUP = 1`. -/
theorem test_seed2_slots : (after (exec .seed2 { fresh .x128ss with arg0 := 1, arg1 := 2 })).map
    (fun t => t.engine.words) =
      some ⟨0x9A428EBB, 0xE1AC6B11, 0xD396A1DF, 0x0693D09A⟩ := by decide

/-- 95 section 4.4: the pair that constructs the all-zero state, with no error. -/
theorem test_seed2_degenerate : (after (exec .seed2 { fresh .xr128ss with
      arg0 := 0x61C8864680B583EB, arg1 := 0x61C8864680B583EB })).map State.statusWord =
    some 0x03 := by decide

/-- 95 section 4.5: bits above `W` are ignored. -/
theorem test_ldst_narrows : (after (exec .ldst { fresh .x128p with
      sin := ⟨0xAAAAAAAA00000001, 0xBBBBBBBB00000002, 0x0000000100000003, 0xFFFFFFFF00000004⟩ })).map
    (fun t => (t.engine, t.init)) = some (.xoshiro32 .plus ⟨1, 2, 3, 4⟩, true) := by decide

/-- 95 section 4.5: words beyond `N` are ignored. -/
theorem test_ldst_two_words :
    (after (exec .ldst { fresh .xr128p with sin := ⟨1, 2, 0xDEAD, 0xBEEF⟩ })).map
      (fun t => t.engine) = some (.xoroshiro64 .plus ⟨1, 2⟩) := by decide

/-- 95 section 4.5: zeros beyond `N`. -/
theorem test_rdst : (after (exec .rdst { loaded .xr128p ⟨1, 2, 0, 0⟩ with sout := ⟨9, 9, 9, 9⟩ })).map
    (fun t => t.sout) = some ⟨1, 2, 0, 0⟩ := by decide

/-- 95 section 3.3, step 1 of `X256PP` and `X256SS`, step 1 of `X128PP`. -/
theorem test_next_xoshiro :
    (after (exec .next (loaded .x256pp ⟨1, 2, 3, 4⟩))).map (fun t => (t.res, t.engine.words)) =
      some (0x2800001, ⟨7, 0, 0x40002, 0xC00000000000⟩) ∧
    (after (exec .next (loaded .x256ss ⟨1, 2, 3, 4⟩))).map (fun t => t.res) = some 0x2D00 ∧
    (after (exec .next (loaded .x128pp ⟨1, 2, 3, 4⟩))).map (fun t => (t.res, t.engine.words)) =
      some (0x281, ⟨7, 0, 0x402, 0x3000⟩) := by decide

/-- 95 section 3.4, step 1, and section 3.5, the all-ones state. -/
theorem test_next_xoroshiro :
    (after (exec .next (loaded .xr128pp ⟨1, 2, 0, 0⟩))).map (fun t => (t.res, t.engine.words)) =
      some (0x60001, ⟨0x0002000000600003, 0x30000000, 0, 0⟩) ∧
    (after (exec .next (loaded .xr64ss ⟨1, 2, 0, 0⟩))).map (fun t => (t.res, t.engine.words)) =
      some (0x1680, ⟨0x04000603, 0x6000, 0, 0⟩) ∧
    (after (exec .next (loaded .xr64s ⟨0xFFFFFFFF, 0xFFFFFFFF, 0, 0⟩))).map
      (fun t => (t.res, t.engine.words)) = some (0x61C88645, ⟨0xFFFFFFFF, 0, 0, 0⟩) := by decide

/-- 95 section 3.4, the third column: `XR64SS` with the published constants. -/
theorem test_published_constants :
    (nextFn publishedConstTable (.xoroshiro32 .starStar ⟨1, 2⟩)).1 = 0xE2AC153F ∧
    (after (stepWith { hardware with const := publishedConstTable }
      (withEvent (loaded .xr64ss ⟨1, 2, 0, 0⟩) (.write 0 0x06)))).map (fun t => t.res) =
      some 0xE2AC153F := by decide

/-- R184, R6: a block built with `EXPR_MAX = 1` is full after one byte. -/
theorem test_other_capacity :
    (after (execWith (built 1) (.putc 0x31) (typed .x256pp [0x33]))).map
      (fun t => (t.exlen, t.statusWord)) = some (1, 0x6A) ∧
    (fresh .x256pp).idWord (built 1) = 0x01014040 := by decide

/-- 95 section 3.6. -/
theorem test_gmin_gmax :
    (after (exec .gmin { fresh .x128p with res := 5 })).map (fun t => t.res) = some 0 ∧
    (after (exec .gmax (fresh .x128p))).map (fun t => t.res) = some 0xFFFFFFFF ∧
    (after (exec .gmax (fresh .xr128ss))).map (fun t => t.res) = some 0xFFFFFFFFFFFFFFFF := by decide

/-- 95 section 2. -/
theorem test_xpnd :
    (after (exec .xpnd (fresh .x256pp))).map (fun t => t.res) = some 0xE220A8397B1DCDAF ∧
    (after (exec .xpnd { fresh .xr64s with arg0 := 0xFFFFFFFFFFFFFFFF })).map (fun t => t.res) =
      some 0xE4D971771B652C20 := by decide

/-- 95 section 5.4. -/
theorem test_putc_last_and_full :
    (after (exec (.putc 0x30) { fresh .x256pp with exlen := 63 })).map
      (fun t => (t.exlen, t.byteAt 63, t.statusWord)) = some (64, 0x30, 0x02) ∧
    (after (exec (.putc 0x31) { fresh .x256pp with exlen := 64 })).map
      (fun t => (t.exlen, t.expr, t.statusWord)) = some (64, [], 0x6A) := by decide

/-- 95 section 5.4; the bytes stay (R183). -/
theorem test_xclr : (after (exec .xclr (typed .x256pp [0x33, 0x64]))).map
    (fun t => (t.exlen, t.byteAt 1)) = some (0, 0x64) := by decide

/-- 95 section 1.1 and 5.1: `3d6 + 1`, and the six white-space bytes around the sign. -/
theorem test_parse_accepts :
    (after (exec .parse (typed .x128ss [0x33, 0x64, 0x36, 0x20, 0x2B, 0x20, 0x31]))).map
      (fun t => (t.count, t.sides, t.modifier, t.statusWord)) = some (3, 6, 1, 0x06) ∧
    parseFn [0x33, 0x64, 0x36, 0x20, 0x09, 0x2D, 0x0A, 0x20, 0x37] = .ok ⟨3, 6, -7⟩ ∧
    parseFn [0x0B, 0x0C, 0x0D, 0x33, 0x64, 0x39] = .ok ⟨3, 9, 0⟩ := by decide

/-- R181: the bytes next to each class are outside it. -/
theorem test_class_edges :
    parseFn [0x0E, 0x33, 0x64, 0x36] = .error .count ∧ parseFn [0x08, 0x33, 0x64, 0x36] = .error .count ∧
    parseFn [0x2F, 0x64, 0x36] = .error .count ∧ parseFn [0x33, 0x64, 0x3A] = .error .sides := by decide

/-- 95 section 5.1: `36` after an older triple, and each other error. -/
theorem test_parse_rejects :
    (after (exec .parse { typed .x128ss [0x33, 0x36] with count := 3, sides := 6, dvalid := true })).map
      (fun t => (t.count, t.sides, t.modifier, t.statusWord)) = some (0, 0, 0, 0x1A) ∧
    parseFn [0x64, 0x36] = .error .count ∧ parseFn [0x33, 0x64] = .error .sides := by decide

/-- 95 section 5.1: `ECODE` of `E_COUNT`, `E_SIDES` and `E_RANGE` (`d6`, `3d`, `1d2147483648`). -/
theorem test_parse_codes :
    (after (exec .parse (typed .x128ss [0x64, 0x36]))).map (fun t => t.ecode) = some 2 ∧
    (after (exec .parse (typed .x128ss [0x33, 0x64]))).map (fun t => t.ecode) = some 3 ∧
    (after (exec .parse (typed .x128ss [0x31, 0x64, 0x32, 0x31, 0x34, 0x37, 0x34, 0x38, 0x33, 0x36, 0x34,
      0x38]))).map (fun t => t.ecode) = some 4 := by decide

/-- 95 section 5.2. -/
theorem test_lddx : (after (exec .lddx { fresh .xr128pp with
      arg0 := 0x0000000600000004, arg1 := 0x00000000FFFFFFFF })).map
    (fun t => (t.count, t.sides, t.modifier.toInt, t.dvalid)) = some (4, 6, -1, true) := by decide

/-- 95 section 5.3, the fifth and the sixth row. -/
theorem test_sample_draws :
    (after (exec .sample { loaded .x256pp ⟨1, 2, 3, 4⟩ with
      count := 1, sides := 2147483647, dvalid := true })).map (fun t => (t.res, t.engine.words)) =
      some (0x2800002, ⟨7, 0, 0x40002, 0xC00000000000⟩) ∧
    (after (exec .sample { loaded .x256pp ⟨1, 2, 3, 4⟩ with
      count := 2, sides := 1, modifier := 0xFFFFFFFB, dvalid := true })).map
      (fun t => (t.res, t.engine.words)) =
      some (0xFFFFFFFFFFFFFFFD, ⟨0x0000C00000000007, 0x40005, 0x40005, 0x18000000⟩) := by decide

/-- 95 section 5.2, the rows that raise `E_DICE`. -/
theorem test_sample_e_dice :
    (after (exec .sample (diced .x256pp 0xFFFFFFFF 6 0))).map State.statusWord = some 0x5E ∧
    (after (exec .sample (diced .x256pp 3 0 0))).map State.statusWord = some 0x5E ∧
    (after (exec .sample (fresh .x256pp))).map State.statusWord = some 0x5A := by decide

/-- 95 section 5.2. -/
theorem test_dmin :
    (after (exec .dmin (diced .x256pp 1 1 0x80000000))).map (fun t => t.res) =
      some 0xFFFFFFFF80000001 ∧
    (after (exec .dmin { fresh .x256pp with res := 5 })).map (fun t => (t.res, t.statusWord)) =
      some (5, 0x5A) := by decide

/-- 95 section 5.2, the last and the fourth row. -/
theorem test_dmax :
    (after (exec .dmax (diced .x256pp 0x7FFFFFFF 0x7FFFFFFF 0x7FFFFFFF))).map (fun t => t.res) =
      some 0x3FFFFFFF80000000 ∧
    (after (exec .dmax (diced .x256pp 0xFFFFFFFF 6 0))).map (fun t => t.res) =
      some 0xFFFFFFFFFFFFFFFA := by decide

/-! ### The host port -/

/-- 95 section 6: an illegal value, and reserved and read-only registers. -/
theorem test_port :
    (after (step (withEvent (fresh .x256pp) (.write 0 0x100)))).map State.statusWord = some 0x7A ∧
    after (step (withEvent (fresh .x256pp) (.write 0x3F 7))) = some (fresh .x256pp) ∧
    after (step (withEvent (fresh .x256pp) (.write 0x13 7))) = some (fresh .x256pp) ∧
    (after (step (withEvent { fresh .x256pp with res := 9 } (.read 0x3F)))).map State.reads = some [0] ∧
    (after (step (withEvent (fresh .x256pp) (.read 1)))).map State.reads = some [2] := by decide

/-- 95 section 5.2: the triple reads sign-extended. -/
theorem test_read_triple :
    (fresh .x256pp).regRead hardware 0x13 = 0 ∧
    (diced .x256pp 1 1 0x80000000).regRead hardware 0x12 = 0xFFFFFFFF80000000 ∧
    (diced .x256pp 0xFFFFFFFF 6 0).regRead hardware 0x10 = 0xFFFFFFFFFFFFFFFF ∧
    (diced .x256pp 0xFFFFFFFF 6 0).regRead hardware 0x11 = 6 := by decide

/-- 95 section 3.6. -/
theorem test_id : (fresh .xr64s).idWord hardware = 0x4001202A ∧
    (State.resetFor .xr64s .two).idWord hardware = 0x4002202A := by decide

/-- R54: the two bytes a host sees first of `0x9E3779BB`. -/
theorem test_raw_export :
    rawExport byteOrder 32 0x9E3779BB = [0xBB, 0x79, 0x37, 0x9E] ∧
    rawExport .big 32 0x9E3779BB = [0x9E, 0x37, 0x79, 0xBB] := by decide

/-! ### Witnesses: every statement with hypotheses has a state and operands that meet them all -/

theorem witness_WarmupTwoIsWarmupOneThenNext :
    (Instr.seed1 = .seed1 ∨ Instr.seed1 = .seed2) ∧ (Instr.seed2 = .seed1 ∨ Instr.seed2 = .seed2) := by
  decide

/-- Another instance, the words staged from the snapshot, other values in the rest of `SIN`. -/
theorem witness_StateRoundTrip :
    (fresh .xr64s).engine.variant = (loaded .xr64s ⟨1, 2, 0, 0⟩).engine.variant ∧
    ∃ t, exec .rdst (loaded .xr64s ⟨1, 2, 0, 0⟩) = .next t ∧
      ∀ i : Fin 4, i.val < wordCount (loaded .xr64s ⟨1, 2, 0, 0⟩).engine.variant →
        ({ fresh .xr64s with sin := ⟨1, 2, 7, 8⟩ } : State).sin.get i = t.sout.get i :=
  ⟨by decide, _, rfl, by decide⟩

/-- A replacement of `EXPAND` that has R172 (b) and (c), for the clauses over any parameters. -/
def otherExpand (x : Reg) : Reg := x + 1

theorem witness_otherExpand :
    ExpandZeroAt otherExpand 0xFFFFFFFFFFFFFFFF ∧ ExpandNeverZeroTwice otherExpand := by
  refine ⟨fun x => ⟨fun h => ?_, fun h => by rw [h]; decide⟩, fun x h => ?_⟩
  · simp only [otherExpand] at h
    bv_omega
  · rw [h.1] at h
    exact absurd h.2 (by decide)

theorem witness_Seed1IsNeverDegenerateAt64Bits :
    wordWidth (fresh .x256pp).engine.variant = 64 ∧ constTableOk publishedConstTable = true ∧
    ExpandNeverZeroTwice otherExpand := ⟨by decide, by decide, witness_otherExpand.2⟩

theorem witness_ExpandIsABijection :
    0 < 31 ∧ (0x94D049BB133111EB#64).toNat % 2 = 1 ∧ otherExpand 0 ≠ 0 ∧
    expand expandZeroPreimage = 0 := by decide

/-- Both sides of the equivalence: at the pair, and away from it for `N = 2` and `N = 4`. -/
theorem witness_Seed2IsDegenerateAt64BitsExactlyAtOnePair :
    wordWidth (fresh .xr128p).engine.variant = 64 ∧
    (after (exec .seed2 { fresh .xr128p with
      arg0 := 0x61C8864680B583EB, arg1 := 0x61C8864680B583EB })).map State.zeroFlag = some true ∧
    (after (exec .seed2 { fresh .xr128p with arg0 := 0x61C8864680B583EB })).map State.zeroFlag =
      some false ∧
    wordWidth (fresh .x256p).engine.variant = 64 ∧
    (after (exec .seed2 { fresh .x256p with
      arg0 := 0x61C8864680B583EB, arg1 := 0x61C8864680B583EB })).map State.zeroFlag =
      some false ∧
    (after (execWith { hardware with expand := otherExpand } .seed2 { fresh .xr128p with
      arg0 := 0xFFFFFFFFFFFFFFFF, arg1 := 0xFFFFFFFFFFFFFFFF })).map State.zeroFlag =
      some true := by decide

theorem witness_UpdatesFollowTheirRecurrence : constTableOk constTable = true := by decide

theorem witness_AllZeroStateIsAFixedPoint :
    (Engine.xoroshiro32 .star ⟨0, 0⟩).isZero = true ∧
    (fresh .x256pp).sin = ⟨0, 0, 0, 0⟩ := by decide

theorem witness_UpdateIsABijectionFixingZero :
    constTableOk publishedConstTable = true ∧ (Engine.xoroshiro32 .star ⟨0, 1⟩).isZero = false := by
  decide

/-- Two states that share the engine and nothing else that matters. -/
theorem witness_NextDependsOnTheEngineOnly :
    (loaded .x256pp ⟨1, 2, 3, 4⟩).engine =
      ({ loaded .x256pp ⟨1, 2, 3, 4⟩ with res := 9, arg0 := 3, dvalid := true } : State).engine ∧
    0 < 1 := by decide

theorem witness_PutcAppendsOrReportsFull :
    ({ fresh .x256pp with exlen := 64 } : State).exlen.toNat = 64 ∧
    (fresh .x256pp).Inv ∧ (fresh .x256pp).exlen.toNat ≠ 64 ∧
    ({ fresh .x256pp with exlen := 63 } : State).Inv ∧
    ({ fresh .x256pp with exlen := 63 } : State).exlen.toNat ≠ 64 := by decide

theorem witness_PutcAppendsOrReportsFull_other_capacity :
    (fresh .x256pp).InvWith (built 1) ∧
    (fresh .x256pp).exlen.toNat ≠ (built 1).exprMax ∧
    ({ fresh .x256pp with exlen := 255 } : State).exlen.toNat =
      (built 255).exprMax := by decide

theorem witness_IdReadsTheParameters : exprMaxOk hardware.exprMax = true := by decide

theorem witness_ParseWritesOrClearsTheTriple :
    parseFn [0x31, 0x64, 0x34, 0x2D, 0x31] = .ok ⟨1, 4, -1⟩ ∧
    [0x31, 0x64, 0x34, 0x2D, 0x31].length =
      (typed .x256pp [0x31, 0x64, 0x34, 0x2D, 0x31]).exlen.toNat ∧
    (∀ p, p < (typed .x256pp [0x31, 0x64, 0x34, 0x2D, 0x31]).exlen.toNat →
      [0x31#8, 0x64#8, 0x34#8, 0x2D#8, 0x31#8][p]? =
        some ((typed .x256pp [0x31, 0x64, 0x34, 0x2D, 0x31]).byteAt p)) ∧
    parseFn [] = .error .count ∧ ([] : List Byte).length = (fresh .x256pp).exlen.toNat ∧
    (ErrCode.count = .noSep ∧ 2#4 = 1 ∨ ErrCode.count = .count ∧ 2#4 = 2 ∨
      ErrCode.count = .sides ∧ 2#4 = 3 ∨ ErrCode.count = .range ∧ 2#4 = 4) := by decide

/-- 95 section 5.1: the greatest literal, and one more, in each of the three groups. -/
theorem witness_ParserMatchesTheGrammar :
    parseFn [0x32, 0x31, 0x34, 0x37, 0x34, 0x38, 0x33, 0x36, 0x34, 0x37, 0x64, 0x31] =
      .ok ⟨2147483647, 1, 0⟩ ∧
    parseFn [0x32, 0x31, 0x34, 0x37, 0x34, 0x38, 0x33, 0x36, 0x34, 0x38, 0x64, 0x31] =
      .error .range ∧
    parseFn [0x31, 0x64, 0x32, 0x31, 0x34, 0x37, 0x34, 0x38, 0x33, 0x36, 0x34, 0x38] =
      .error .range ∧
    parseFn [0x31, 0x64, 0x31, 0x2D, 0x32, 0x31, 0x34, 0x37, 0x34, 0x38, 0x33, 0x36, 0x34, 0x37] =
      .ok ⟨1, 1, -2147483647⟩ ∧
    parseFn [0x31, 0x64, 0x31, 0x2D, 0x32, 0x31, 0x34, 0x37, 0x34, 0x38, 0x33, 0x36, 0x34, 0x38] =
      .error .range := by decide

/-- The declarative match has an instance: `3d6-1`, its group, its literals. -/
theorem witness_HeadMatch :
    HeadMatch [0x33, 0x64, 0x36, 0x2D, 0x31] 3 6 [0x2D, 0x31] ∧
    GroupMatch [0x2D, 0x31] (some (true, 1)) := by
  refine ⟨⟨[], [0x33], [0x36], rfl, ?_, ⟨by decide, by decide⟩, ⟨by decide, by decide⟩, ?_, rfl, rfl⟩,
    ⟨[], 0x2D, [], [0x31], [], rfl, ?_, .inr ⟨rfl, rfl⟩, ?_, ⟨by decide, by decide⟩, ?_, rfl⟩⟩
  · intro b hb; cases hb
  · intro b rest h; cases h; decide
  · intro b hb; cases hb
  · intro b hb; cases hb
  · intro b rest h; cases h

/-- 95 section 5.1: each of the three syntax errors, also with a literal out of range. -/
theorem witness_ParserReportsTheFirstFailure :
    parseFn [] = .error .count ∧ parseFn [0x20, 0x20, 0x20] = .error .count ∧
    parseFn [0x32, 0x20, 0x64, 0x38] = .error .noSep ∧
    parseFn [0x39, 0x39, 0x39, 0x39, 0x39, 0x39, 0x39, 0x39, 0x39, 0x39, 0x39] = .error .noSep ∧
    parseFn [0x39, 0x39, 0x39, 0x39, 0x39, 0x39, 0x39, 0x39, 0x39, 0x39, 0x39, 0x64] = .error .sides ∧
    parseFn [0x33, 0x64, 0x64, 0x36] = .error .sides := by decide

/-- Two states that differ in the byte at position 1 while `EXLEN = 1`. -/
theorem witness_UnreachableBytesAreNeverObserved :
    ({ typed .x256pp [0x31] with host := [.write 0 0x12] } : State).Inv ∧
    ({ typed .x256pp [0x31] with expr := [(0, 0x31), (1, 0x64)], host := [.write 0 0x12] } : State).Inv ∧
    sameButUnreachable { typed .x256pp [0x31] with host := [.write 0 0x12] }
      { typed .x256pp [0x31] with expr := [(0, 0x31), (1, 0x64)], host := [.write 0 0x12] } ∧
    (∃ t, step { typed .x256pp [0x31] with host := [.write 0 0x12] } = .next t) ∧
    ∃ t, stepWith (built 255)
      { typed .x256pp [0x31] with host := [.write 0 0x12] } = .next t :=
  ⟨by decide, by decide, ⟨rfl, by decide⟩, ⟨_, rfl⟩, _, rfl⟩

theorem witness_SampleSumsOneDrawPerTransition :
    (diced .x256pp 1 1 0).dvalid = true ∧ 1 ≤ (diced .x256pp 1 1 0).count.toInt ∧
    1 ≤ (diced .x256pp 1 1 0).sides.toInt ∧
    (fresh .x256pp).dvalid = false ∧ (diced .x256pp 0 6 0).count.toInt < 1 ∧
    (diced .x256pp 3 0x80000000 0).sides.toInt < 1 := by decide

theorem witness_RollAdvancesByTheCountForEveryDraw :
    DrawOk 64 draw ∧ DrawOk 32 (fun _ _ => 1) ∧
    DrawOk 32 (fun w d => 1 + w * d / 2 ^ 32) := by
  refine ⟨fun w d _ hd _ => ?_, fun _ _ _ hd _ => ⟨Nat.le_refl 1, hd⟩, fun w d hw hd _ => ?_⟩
  · have := Nat.mod_lt w hd
    simp only [draw]
    omega
  · have : w * d / 2 ^ 32 < d := by
      rw [Nat.div_lt_iff_lt_mul (by decide), Nat.mul_comm]
      exact Nat.mul_lt_mul_of_pos_left hw hd
    refine ⟨Nat.le_add_right .., ?_⟩
    show 1 + w * d / 2 ^ 32 ≤ d
    omega

theorem witness_RollStaysWithinTheDiceBounds :
    DrawOk (wordWidth (Engine.zero .xr64s).variant) (fun _ _ => 1) ∧ 1 ≤ (0x7FFFFFFF#32).toInt ∧
    1 ≤ (1#32).toInt :=
  ⟨fun _ _ _ hd _ => ⟨Nat.le_refl 1, hd⟩, by decide, by decide⟩

theorem witness_SampleLiesBetweenDminAndDmax :
    (diced .x256pp 4 6 0xFFFFFFFF).dvalid = true ∧ 1 ≤ (diced .x256pp 4 6 0xFFFFFFFF).count.toInt ∧
    1 ≤ (diced .x256pp 4 6 0xFFFFFFFF).sides.toInt ∧
    (diced .x256pp 4 6 0xFFFFFFFF).zeroFlag = true := by decide

theorem witness_DminIsCountPlusModifier_and_DmaxIsCountTimesSidesPlusModifier :
    (diced .x256pp 0x80000000 0x80000000 0x7FFFFFFF).dvalid = true ∧
    (fresh .x256pp).dvalid = false := by decide

theorem witness_DecodeAndEncodeAgree : decode 0x0000FF11 = .ok (.putc 0xFF) := by decide

/-- Each of the four conditions alone, at the edge of its field. -/
theorem witness_IllegalWordsReportEIll :
    (0x0000000100000006#64).toNat / 2 ^ 32 ≠ 0 ∧ (0x00010006#64).toNat / 2 ^ 16 % 2 ^ 16 ≠ 0 ∧
    opcodeAssigned (BitVec.ofNat 8 (0x17#64).toNat) = false ∧
    (0x0106#64).toNat / 2 ^ 8 % 2 ^ 8 ≠ 0 ∧ (0x0106#64).toNat % 2 ^ 8 ≠ 0x11 := by decide

theorem witness_StepRunsTheDecodedCommand :
    (withEvent (fresh .x256pp) (.write 0 0x06)).host = [.write 0 0x06] ∧
    decode 0x06 = .ok .next := by decide

theorem witness_NothingHappensWithoutTheHost : (fresh .x256pp).host = [] := rfl

/-- The clauses of the register map at the ends of each range. -/
theorem witness_RegReadFollowsTheRegisterMap :
    (withEvent (fresh .x256pp) (.read 0x0B)).host = [.read 0x0B] ∧
    (0x08#6).toNat = 0x08 + (0 : Fin 4).val ∧ (0x0B#6).toNat = 0x08 + (3 : Fin 4).val ∧
    (0x0C#6).toNat = 0x0C + (0 : Fin 4).val ∧ (0x0F#6).toNat = 0x0C + (3 : Fin 4).val ∧
    (0x13#6).toNat = 0x13 ∧ 0x14 ≤ (0x14#6).toNat ∧ 0x14 ≤ (0x3F#6).toNat ∧
    ({ fresh .x256pp with sin := ⟨1, 2, 3, 4⟩ } : State).regRead hardware 0x0B = 4 ∧
    ({ fresh .x256pp with sout := ⟨5, 6, 7, 8⟩ } : State).regRead hardware 0x0C = 5 ∧
    ({ fresh .x256pp with exlen := 64 } : State).regRead hardware 0x13 = 64 ∧
    ({ fresh .x256pp with exlen := 64 } : State).regRead hardware 0x14 = 0 := by decide

theorem witness_RegWriteStoresOrIsIgnored :
    (after (step (withEvent (fresh .x256pp) (.write 0x02 7)))).map State.arg0 = some 7 ∧
    (after (step (withEvent (fresh .x256pp) (.write 0x03 7)))).map State.arg1 = some 7 ∧
    (after (step (withEvent (fresh .x256pp) (.write 0x08 7)))).map State.sin = some ⟨7, 0, 0, 0⟩ ∧
    (after (step (withEvent (fresh .x256pp) (.write 0x0B 7)))).map State.sin = some ⟨0, 0, 0, 7⟩ ∧
    after (step (withEvent (fresh .x256pp) (.write 0x01 7))) = some (fresh .x256pp) ∧
    after (step (withEvent (fresh .x256pp) (.write 0x04 7))) = some (fresh .x256pp) ∧
    after (step (withEvent (fresh .x256pp) (.write 0x07 7))) = some (fresh .x256pp) ∧
    after (step (withEvent (fresh .x256pp) (.write 0x0C 7))) = some (fresh .x256pp) := by decide

theorem witness_PlatformResetLatchesTheStrap :
    (withEvent (fresh .x256pp) (.reset 10)).host = [.reset 10] ∧ (10#4).toNat ≤ 10 ∧
    11 ≤ (11#4).toNat ∧
    (after (step (withEvent (loaded .x256pp ⟨1, 2, 3, 4⟩) (.reset 10)))).map (fun t => t.engine) =
      some (.xoroshiro32 .star ⟨0, 0⟩) := by decide

theorem witness_OnlyIllegalEventsAreRefused :
    eventOk (.busRead 504 4) = false ∧ eventOk (.busRead 504 8) = true ∧
    eventOk (.reset 15) = false := by decide

theorem witness_AccessesArePerformedInHostOrder :
    ((fresh .x256pp).setHost
      ([.write 2 42, .write 0 (encode .seed1), .write 0 (encode .next), .read 4] ++ [])).host =
    [.write 2 42, .write 0 (encode .seed1), .write 0 (encode .next), .read 4] ++ [] := rfl

/-- A command and an illegal value that end with an error, for the two statements about errors. -/
theorem witness_ErrorsAreTheListedOnes_and_FailedCommandsChangeOnlyTheReport :
    decode 0x12 ≠ .ok .nop ∧ (∃ t, runCommand exec 0x12 (diced .x256pp 1 2 3) = .next t ∧ t.err = true) ∧
    decode 0x17 ≠ .ok .nop ∧ (∃ t, runCommand exec 0x17 (diced .x256pp 1 2 3) = .next t ∧ t.err = true) :=
  ⟨by decide, ⟨_, rfl, rfl⟩, by decide, ⟨_, rfl, rfl⟩⟩

theorem witness_InitIsWrittenByFourCommands :
    (∃ t, exec .seed1 (fresh .x128p) = .next t ∧ t.init = true) ∧
    (∃ t, exec .clr (loaded .x128p ⟨1, 2, 3, 4⟩) = .next t ∧ t.init = false) :=
  ⟨⟨_, rfl, rfl⟩, ⟨_, rfl, rfl⟩⟩

theorem witness_OnlySixCommandsChangeTheState :
    ∃ t, exec .dmax (diced .x256pp 1 2 3) = .next t ∧ Instr.dmax ≠ .next ∧ Instr.dmax ≠ .sample :=
  ⟨_, rfl, by decide, by decide⟩

/-- A command that never writes `RES`, and one that does not because it fails. -/
theorem witness_OnlyResultCommandsWriteRes :
    (∃ t, exec .rdst (fresh .x256pp) = .next t) ∧
    (∃ t, exec .dmin (fresh .x256pp) = .next t ∧ t.err = true ∧ Instr.dmin ≠ .nop) :=
  ⟨⟨_, rfl⟩, ⟨_, rfl, rfl, by decide⟩⟩

theorem witness_OnlyParseAndLddxChangeTheTriple :
    ∃ t, exec .sample (diced .x256pp 1 2 3) = .next t ∧ Instr.sample ≠ .parse ∧
      Instr.sample ≠ .lddx := ⟨_, rfl, by decide, by decide⟩

theorem witness_CommandsKeepOperandsAndParameters :
    ∃ t, exec .seed2 (fresh .xr64ss) = .next t ∧ Instr.seed2 ≠ .rdst := ⟨_, rfl, by decide⟩

theorem witness_EveryBufferByteIsKeptButTheOnePutcStores :
    (typed .x256pp [0x33]).Inv ∧ (∃ t, exec (.putc 0x64) (typed .x256pp [0x33]) = .next t) ∧
    (typed .x256pp [0x33]).exlen.toNat ≠ 64 ∧
    ({ fresh .x256pp with exlen := 64 } : State).Inv ∧
    ({ fresh .x256pp with exlen := 64 } : State).exlen.toNat = 64 :=
  ⟨by decide, ⟨_, rfl⟩, by decide, by decide, by decide⟩

/-- A step that is no reset; and a reset event, to which the second clause does not apply. -/
theorem witness_VariantAndParametersAreImmutable :
    (∃ t, step (withEvent (fresh .x256pp) (.write 2 1)) = .next t) ∧
    (∃ t, stepWith { hardware with const := publishedConstTable }
      (withEvent (fresh .x256pp) (.write 2 1)) = .next t) ∧
    isReset (.write 2 1) = false ∧ isReset (.reset 3) = true := ⟨⟨_, rfl⟩, ⟨_, rfl⟩, rfl, rfl⟩

theorem witness_EveryStepKeepsTheInvariant :
    (withEvent (typed .xr64s [0x33]) (.write 0 0x6411)).Inv ∧
    (∃ t, step (withEvent (typed .xr64s [0x33]) (.write 0 0x6411)) = .next t) ∧
    exprMaxOk (built 1).exprMax = true ∧
    (withEvent (typed .xr64s [0x33]) (.write 0 0x6411)).InvWith (built 1) ∧
    ∃ t, stepWith (built 1) (withEvent (typed .xr64s [0x33]) (.write 0 0x6411)) =
      .next t :=
  ⟨by decide, ⟨_, rfl⟩, by decide, by decide, _, rfl⟩

end Sys2Proof.Tests
end

section
/-! O57. The warm-up count and the variant of an instance: no command and no register write changes either,
a read neither, and the platform's reset keeps the warm-up count (spec/00_scope.md R2, R6;
spec/70_reset_and_hazards.md R251). -/

namespace Sys2Proof.Machine

variable (P : Params)

@[simp] theorem parseEffect_warmup (s : State) (r : Except ErrCode DiceExpr) :
    (parseEffect s r).warmup = s.warmup := by cases r <;> simp [parseEffect]

@[simp] theorem parseEffect_engine (s : State) (r : Except ErrCode DiceExpr) :
    (parseEffect s r).engine = s.engine := by cases r <;> simp [parseEffect]

/-- No command writes `WARMUP` (R6); those that assign `S` (`CLR`, the seedings, `LDST`, `NEXT`, `SAMPLE`) keep
its shape, and the others keep `S` itself (R2, R251). -/
theorem effect_keeps_warmup_variant (i : Instr) (s : State) :
    (effect P i s).warmup = s.warmup ∧ (effect P i s).engine.variant = s.engine.variant := by
  cases i with
  | nop => simp [effect_nop]
  | clr => simp [effect_clr]
  | seed1 => simp [effect_seed1]
  | seed2 => simp [effect_seed2]
  | ldst => simp [effect_ldst]
  | rdst => simp [effect_rdst]
  | next => simp [effect_next]
  | gmin => simp [effect_gmin]
  | gmax => simp [effect_gmax]
  | xpnd => simp [effect_xpnd]
  | xclr => simp [effect_xclr]
  | putc b => rw [effect_putc]; split <;> simp
  | parse => simp [effect_parse]
  | lddx => simp [effect_lddx]
  | sample => rw [effect_sample]; split <;> simp [sampleRoll_engine]
  | dmin => rw [effect_dmin]; split <;> simp
  | dmax => rw [effect_dmax]; split <;> simp

@[simp] theorem effect_warmup (i : Instr) (s : State) : (effect P i s).warmup = s.warmup :=
  (effect_keeps_warmup_variant P i s).1

@[simp] theorem effect_variant (i : Instr) (s : State) :
    (effect P i s).engine.variant = s.engine.variant :=
  (effect_keeps_warmup_variant P i s).2

@[simp] theorem platformReset_warmup (v : Variant) (s : State) :
    (platformReset v s).warmup = s.warmup := (rfl)

variable {P} {s t : State}

/-- A register write, to `CMD` or elsewhere, keeps both (R28, R29). -/
theorem regWrite_keeps_warmup_variant {idx : BitVec 6} {v : Reg}
    (h : regWrite (execWith P) idx v s = .next t) :
    t.warmup = s.warmup ∧ t.engine.variant = s.engine.variant := by
  rcases regWrite_cases P idx v s with
    ⟨i, -, -, hw⟩ | ⟨e, -, -, hw⟩ | ⟨-, hw⟩ | ⟨-, hw⟩ | ⟨i, -, hw⟩ | hw <;>
  · cases hw.symm.trans h
    simp

/-- One host event: it keeps `WARMUP`, and if it is no reset, the variant too. -/
theorem perform_keeps_warmup_variant {ev : HostEvent} (h : perform P (execWith P) ev s = .next t) :
    t.warmup = s.warmup ∧ (isReset ev = false → t.engine.variant = s.engine.variant) := by
  rcases perform_cases P (execWith P) ev s with
    ⟨-, -, idx, v, hp⟩ | ⟨-, -, v, hp⟩ | ⟨-, hreset, v, hp⟩ | ⟨-, r, hp⟩
  · obtain ⟨hwarmup, hvariant⟩ := regWrite_keeps_warmup_variant (hp.symm.trans h)
    exact ⟨hwarmup, fun _ => hvariant⟩
  · cases hp.symm.trans h
    simp
  · cases hp.symm.trans h
    simp [hreset]
  · cases hp.symm.trans h

/-- One step at any parameters: the next event decides, and with none pending nothing changes (R231). -/
theorem stepWith_keeps_warmup_variant (h : stepWith P s = .next t) :
    t.warmup = s.warmup ∧
      ((∀ ev rest, s.host = ev :: rest → isReset ev = false) →
        t.engine.variant = s.engine.variant) := by
  cases hhost : s.host with
  | nil =>
    cases (stepWith_of_nil P hhost).symm.trans h
    exact ⟨rfl, fun _ => rfl⟩
  | cons ev rest =>
    obtain ⟨hwarmup, hvariant⟩ :=
      perform_keeps_warmup_variant ((stepWith_of_cons P hhost).symm.trans h)
    exact ⟨hwarmup, fun hnoReset => hvariant (hnoReset ev rest rfl)⟩

/-- Settles O57: by the next host event at any parameters, and `step` is `stepWith hardware`. -/
theorem variantAndParametersAreImmutable : Obligations.VariantAndParametersAreImmutable := by
  unfold Obligations.VariantAndParametersAreImmutable
  exact ⟨fun _ _ _ h => stepWith_keeps_warmup_variant h,
    fun _ _ h => stepWith_keeps_warmup_variant (step_eq_stepWith ▸ h)⟩

end Sys2Proof.Machine
end

section
/-! What a command can answer, as one relation with a constructor for each kind of effect, and what each
answer leaves unchanged: O52, O53, O55 (spec/10_state.md R23, R34, R35, R37, R38, R42). -/

namespace Sys2Proof.Machine

variable (P : Params) (s : State)

/-- What the commands can answer from `s`, one shape for each kind of effect. -/
inductive Answer : Instr → State → Prop
  /-- `NOP` leaves the state, the report included (R101). -/
  | unchanged : Answer .nop s
  /-- The commands that can fail, `PARSE` apart, then write the report only (R221). -/
  | failed {i : Instr} (c : ErrCode)
      (hi : (∃ b, i = .putc b) ∨ i = .sample ∨ i = .dmin ∨ i = .dmax) :
      Answer i (s.setError c)
  /-- `CLR` (R102). -/
  | engineCleared :
      Answer .clr ((s.setEngine (Engine.zero s.engine.variant)).setInit false).clearError
  /-- The seedings and `LDST` assign an engine (R104, R107, R110). -/
  | engineAssigned {i : Instr} (e : Engine) (hi : i = .seed1 ∨ i = .seed2 ∨ i = .ldst) :
      Answer i ((s.setEngine e).setInit true).clearError
  /-- `RDST` (R113). -/
  | snapshot : Answer .rdst (s.setSout s.engine.words).clearError
  /-- `NEXT` and `SAMPLE` make transitions and give a result (R150, R205). -/
  | drawn {i : Instr} (n : Nat) (v : Reg) (hi : i = .next ∨ i = .sample) :
      Answer i ((s.setEngine (Engine.advance P.const n s.engine)).setRes v).clearError
  /-- The commands that only give a result (R153, R154, R174, R208, R209). -/
  | result {i : Instr} (v : Reg)
      (hi : i = .gmin ∨ i = .gmax ∨ i = .xpnd ∨ i = .dmin ∨ i = .dmax) :
      Answer i (s.setRes v).clearError
  /-- `XCLR` (R183). -/
  | stringStarted : Answer .xclr (s.setExlen 0).clearError
  /-- `PUTC` on a buffer that is not full (R184). -/
  | byteAppended (b : Byte) (hfull : s.exlen.toNat ≠ P.exprMax) :
      Answer (.putc b) ((s.putByte s.exlen.toNat b).setExlen (s.exlen + 1)).clearError
  /-- `PARSE` of a string that is no dice expression (R191). -/
  | tripleCleared (c : ErrCode) : Answer .parse ((s.setTriple 0 0 0 false).setError c)
  /-- `PARSE` of a dice expression, and `LDDX` (R190, R198). -/
  | tripleLoaded {i : Instr} (c d m : BitVec 32) (hi : i = .parse ∨ i = .lddx) :
      Answer i (s.setTriple c d m true).clearError

/-- The relation is that of the model: what a command does is one of its answers. -/
theorem effect_answer (i : Instr) : Answer P s i (effect P i s) := by
  cases i with
  | nop => exact effect_nop P s ▸ .unchanged
  | clr => exact effect_clr P s ▸ .engineCleared
  | seed1 => exact effect_seed1 P s ▸ .engineAssigned _ (by simp)
  | seed2 => exact effect_seed2 P s ▸ .engineAssigned _ (by simp)
  | ldst => exact effect_ldst P s ▸ .engineAssigned _ (by simp)
  | rdst => exact effect_rdst P s ▸ .snapshot
  | next => exact effect_next P s ▸ .drawn 1 _ (by simp)
  | gmin => exact effect_gmin P s ▸ .result _ (by simp)
  | gmax => exact effect_gmax P s ▸ .result _ (by simp)
  | xpnd => exact effect_xpnd P s ▸ .result _ (by simp)
  | xclr => exact effect_xclr P s ▸ .stringStarted
  | putc b =>
    rw [effect_putc]
    split
    · exact .failed _ (by simp)
    · exact .byteAppended b ‹_›
  | parse =>
    rw [effect_parse]
    cases parseFn s.source with
    | ok d => exact .tripleLoaded _ _ _ (by simp)
    | error c => exact .tripleCleared c
  | lddx => exact effect_lddx P s ▸ .tripleLoaded _ _ _ (by simp)
  | sample =>
    rw [effect_sample]
    split
    · exact sampleRoll_engine P s ▸ .drawn _ _ (by simp)
    · exact .failed _ (by simp)
  | dmin =>
    rw [effect_dmin]
    split
    · exact .result _ (by simp)
    · exact .failed _ (by simp)
  | dmax =>
    rw [effect_dmax]
    split
    · exact .result _ (by simp)
    · exact .failed _ (by simp)

variable {P s} {i : Instr} {t : State}

theorem answer_of_exec (h : exec i s = .next t) : Answer hardware s i t :=
  (exec_next_iff i s t).1 h ▸ effect_answer hardware s i

/-! ### What each register group keeps -/

theorem Answer.operands_and_host_eq (h : Answer P s i t) :
    t.arg0 = s.arg0 ∧ t.arg1 = s.arg1 ∧ t.sin = s.sin ∧ t.host = s.host ∧ t.reads = s.reads := by
  cases h <;> simp

theorem Answer.sout_eq (h : Answer P s i t) (hi : i ≠ .rdst) : t.sout = s.sout := by
  cases h <;> simp at hi ⊢

theorem Answer.expr_eq (h : Answer P s i t) (hputc : ∀ b, i ≠ .putc b) : t.expr = s.expr := by
  cases h <;> simp at hputc ⊢

theorem Answer.exlen_eq (h : Answer P s i t) (hxclr : i ≠ .xclr) (hputc : ∀ b, i ≠ .putc b) :
    t.exlen = s.exlen := by
  cases h <;> simp at hxclr hputc ⊢

theorem Answer.engine_eq (h : Answer P s i t) (hclr : i ≠ .clr) (hseed1 : i ≠ .seed1)
    (hseed2 : i ≠ .seed2) (hldst : i ≠ .ldst) (hnext : i ≠ .next) (hsample : i ≠ .sample) :
    t.engine = s.engine := by
  cases h <;> simp_all

theorem Answer.init_eq (h : Answer P s i t) (hseed1 : i ≠ .seed1) (hseed2 : i ≠ .seed2)
    (hldst : i ≠ .ldst) (hclr : i ≠ .clr) : t.init = s.init := by
  cases h <;> simp_all

theorem Answer.init_of_assigning (h : Answer P s i t) (hi : i = .seed1 ∨ i = .seed2 ∨ i = .ldst) :
    t.init = true := by
  rcases hi with rfl | rfl | rfl <;> cases h <;> simp_all

theorem Answer.init_of_clr (h : Answer P s .clr t) : t.init = false := by
  cases h <;> simp_all

theorem Answer.res_eq (h : Answer P s i t)
    (hi : i ≠ .next ∧ i ≠ .gmin ∧ i ≠ .gmax ∧ i ≠ .xpnd ∧ i ≠ .sample ∧ i ≠ .dmin ∧ i ≠ .dmax) :
    t.res = s.res := by
  cases h <;> simp_all

theorem Answer.res_eq_of_err (h : Answer P s i t) (herr : t.err = true) (hnop : i ≠ .nop) :
    t.res = s.res := by
  cases h <;> simp at herr hnop ⊢

/-- Settles O52. -/
theorem onlySixCommandsChangeTheState : Obligations.OnlySixCommandsChangeTheState := by
  unfold Obligations.OnlySixCommandsChangeTheState
  exact fun _ _ _ h => (answer_of_exec h).engine_eq

/-- Settles O53: the other commands have no result, and a failed one writes the report or the triple. -/
theorem onlyResultCommandsWriteRes : Obligations.OnlyResultCommandsWriteRes := by
  unfold Obligations.OnlyResultCommandsWriteRes
  rintro i s t h (hother | ⟨herr, hnop⟩)
  · exact (answer_of_exec h).res_eq hother
  · exact (answer_of_exec h).res_eq_of_err herr hnop

/-- Settles O55. -/
theorem commandsKeepOperandsAndParameters : Obligations.CommandsKeepOperandsAndParameters := by
  unfold Obligations.CommandsKeepOperandsAndParameters
  intro i s t h
  obtain ⟨harg0, harg1, hsin, hhost, hreads⟩ := (answer_of_exec h).operands_and_host_eq
  obtain rfl := (exec_next_iff i s t).1 h
  exact ⟨harg0, harg1, hsin, (answer_of_exec h).sout_eq, effect_variant .., effect_warmup ..,
    hhost, hreads⟩

end Sys2Proof.Machine
end

section
/-! O58, O59. The invariant: each of its five parts is kept by every answer of a command, reset meets it,
and the other events write no register that it speaks of (spec/10_state.md R31, R33, R38 to R40, R43). -/

namespace Sys2Proof.Machine

variable {P : Params} {s t : State} {i : Instr}

theorem ErrCode.code_range (c : ErrCode) : c.code ≠ 0 ∧ c.code.toNat ≤ 7 := by
  cases c <;> decide

/-- One more byte, whether or not the 8-bit counter wraps. -/
theorem exlen_succ_le (n : BitVec 8) : (n + 1).toNat ≤ n.toNat + 1 := by
  rw [BitVec.toNat_add]
  exact Nat.mod_le _ _

theorem Answer.bufferOk (h : Answer P s i t) (hs : s.bufferOk P) : t.bufferOk P := by
  cases h with
  | stringStarted =>
    obtain ⟨hwf, hcells, -⟩ := hs
    exact ⟨hwf, hcells, by simp⟩
  | byteAppended b hfull =>
    obtain ⟨hwf, hcells, hlen⟩ := hs
    have hroom : s.exlen.toNat < P.exprMax := by omega
    refine ⟨Memory.write_wf hwf _ b, fun c hc => ?_, (exlen_succ_le s.exlen).trans hroom⟩
    rcases Memory.mem_write hc with hold | ⟨rfl, -⟩
    · exact hcells c hold
    · exact hroom
  | _ => exact hs

theorem Answer.errorOk (h : Answer P s i t) (hs : s.errorOk) : t.errorOk := by
  cases h with
  | unchanged => exact hs
  | failed c => simpa [State.errorOk] using c.code_range
  | tripleCleared c => simpa [State.errorOk] using c.code_range
  | _ => simp [State.errorOk]

theorem Answer.tripleOk (h : Answer P s i t) (hs : s.tripleOk) : t.tripleOk := by
  cases h with
  | tripleCleared c => simp [State.tripleOk]
  | tripleLoaded c d m => simp [State.tripleOk]
  | _ => simpa [State.tripleOk] using hs

/-- An engine that no state was assigned to is all-zero, and transitions leave it so (R22). -/
theorem Answer.engineOk (h : Answer P s i t) (hs : s.engineOk) : t.engineOk := by
  cases h with
  | engineCleared => simp [State.engineOk]
  | engineAssigned e => simp [State.engineOk]
  | drawn n v =>
    intro hinit
    have hzero : s.engine.isZero = true := hs hinit
    simpa [Engine.advance_of_isZero P.const hzero] using hzero
  | _ => simpa [State.engineOk] using hs

/-- The bounds of a snapshot are those of the variant, which no command changes. -/
theorem effect_snapshotOk (i : Instr) (hs : s.snapshotOk) : (effect P i s).snapshotOk := by
  have h := effect_answer P s i
  simp only [State.snapshotOk, effect_variant] at hs ⊢
  generalize effect P i s = t at h ⊢
  cases h with
  | snapshot => exact s.engine.words_bounds
  | _ => simpa using hs

theorem effect_inv (i : Instr) (hs : s.InvWith P) : (effect P i s).InvWith P := by
  have h := effect_answer P s i
  obtain ⟨hbuffer, herror, htriple, hengine, hsnapshot⟩ := hs
  exact ⟨h.bufferOk hbuffer, h.errorOk herror, h.tripleOk htriple, h.engineOk hengine,
    effect_snapshotOk i hsnapshot⟩

theorem State.setError_inv (c : ErrCode) (hs : s.InvWith P) : (s.setError c).InvWith P := by
  obtain ⟨hbuffer, -, hrest⟩ := hs
  exact ⟨hbuffer, by simpa [State.errorOk] using c.code_range, hrest⟩

@[simp] theorem Quad.get_zero (w : Nat) (k : Fin 4) : (Quad.zero w).get k = 0 := by
  fin_cases k <;> rfl

theorem State.resetFor_inv (P : Params) (v : Variant) (wu : Warmup) :
    (State.resetFor v wu).InvWith P := by
  refine ⟨⟨Memory.wf_nil, ?_, ?_⟩, ?_, fun _ => ⟨rfl, rfl, rfl⟩, fun _ => Engine.isZero_zero v, ?_⟩
  · simp [State.resetFor]
  · simp [State.resetFor]
  · simp [State.errorOk, State.resetFor]
  · simp [State.snapshotOk, State.resetFor]

theorem regWrite_inv {idx : BitVec 6} {v : Reg} (hs : s.InvWith P)
    (h : regWrite (execWith P) idx v s = .next t) : t.InvWith P := by
  rcases regWrite_cases P idx v s with
    ⟨i, -, -, hw⟩ | ⟨e, -, -, hw⟩ | ⟨-, hw⟩ | ⟨-, hw⟩ | ⟨k, -, hw⟩ | hw <;> cases hw.symm.trans h
  · exact effect_inv i hs
  · exact State.setError_inv .ill hs
  all_goals exact hs

theorem perform_inv {ev : HostEvent} (hs : s.InvWith P)
    (h : perform P (execWith P) ev s = .next t) : t.InvWith P := by
  rcases perform_cases P (execWith P) ev s with
    ⟨-, -, idx, v, hp⟩ | ⟨-, -, v, hp⟩ | ⟨-, -, v, hp⟩ | ⟨-, r, hp⟩
  · exact regWrite_inv hs (hp.symm.trans h)
  · cases hp.symm.trans h
    exact hs
  · cases hp.symm.trans h
    exact State.resetFor_inv P v s.warmup
  · cases hp.symm.trans h

theorem stepWith_inv (hs : s.InvWith P) (h : stepWith P s = .next t) : t.InvWith P := by
  cases hhost : s.host with
  | nil =>
    cases (stepWith_of_nil P hhost).symm.trans h
    exact hs
  | cons ev rest =>
    have hqueue : (s.setHost rest).InvWith P := hs
    exact perform_inv hqueue ((stepWith_of_cons P hhost).symm.trans h)

/-- Settles O58: every event keeps the invariant, whatever `EXPR_MAX` is. -/
theorem everyStepKeepsTheInvariant : Obligations.EveryStepKeepsTheInvariant := by
  unfold Obligations.EveryStepKeepsTheInvariant
  exact ⟨fun _ _ _ _ => stepWith_inv, fun _ _ hs h => stepWith_inv hs (step_eq_stepWith ▸ h)⟩

/-- Settles O59. -/
theorem resetMeetsTheInvariant : Obligations.ResetMeetsTheInvariant := by
  unfold Obligations.ResetMeetsTheInvariant
  exact ⟨State.resetFor_inv, State.resetFor_inv hardware _ _⟩

end Sys2Proof.Machine
end

section
/-! O56 and O26. The bytes of `EXPR`: `PUTC` stores one at position `EXLEN` and no command changes another;
and two states that differ only in bytes at positions `>= EXLEN` do so after every step
(spec/10_state.md R40, R41, R43; spec/20_memory.md R50). -/

namespace Sys2Proof.Machine

variable {P : Params} {s s' : State} {m : Memory}

/-! ### `PUTC` -/

theorem effect_putc_of_full (b : Byte) (h : s.exlen.toNat = P.exprMax) :
    effect P (.putc b) s = s.setError .full := by rw [effect_putc, if_pos h]

theorem effect_putc_of_not_full (b : Byte) (h : s.exlen.toNat ≠ P.exprMax) :
    effect P (.putc b) s =
      ((s.putByte s.exlen.toNat b).setExlen (s.exlen + 1)).clearError := by
  rw [effect_putc, if_neg h]

theorem byteAt_effect_putc_other (b : Byte) {p : Nat} (hp : p ≠ s.exlen.toNat) :
    (effect P (.putc b) s).byteAt p = s.byteAt p := by
  by_cases hfull : s.exlen.toNat = P.exprMax
  · rw [effect_putc_of_full b hfull, State.setError_byteAt]
  · rw [effect_putc_of_not_full b hfull]
    exact Memory.read_write_other _ b hp

theorem byteAt_effect_putc_same (b : Byte) (hwf : Memory.wf s.expr)
    (hfull : s.exlen.toNat ≠ P.exprMax) : (effect P (.putc b) s).byteAt s.exlen.toNat = b := by
  rw [effect_putc_of_not_full b hfull]
  exact Memory.read_write_same hwf _ b

/-- Settles O56. -/
theorem everyBufferByteIsKeptButTheOnePutcStores :
    Obligations.EveryBufferByteIsKeptButTheOnePutcStores := by
  unfold Obligations.EveryBufferByteIsKeptButTheOnePutcStores
  intro i s t hs h
  refine ⟨fun hputc p => ?_, ?_, (answer_of_exec h).exlen_eq⟩
  · exact congrArg (Memory.read · p) ((answer_of_exec h).expr_eq hputc)
  · rintro b rfl
    obtain ⟨⟨hwf, -, -⟩, -⟩ := hs
    obtain rfl := (exec_next_iff _ s t).1 h
    refine ⟨fun p hp => byteAt_effect_putc_other b hp,
      fun hfull => byteAt_effect_putc_same b hwf hfull, fun hfull p => ?_⟩
    rw [effect_putc_of_full (P := hardware) b hfull, State.setError_byteAt]

/-! ### Another buffer under the same state -/

/-- The state with other bytes in the buffer. -/
def State.withExpr (s : State) (m : Memory) : State := { s with expr := m }

theorem sameButUnreachable_iff : sameButUnreachable s s' ↔
    ∃ m, s' = s.withExpr m ∧ ∀ p, p < s.exlen.toNat → Memory.read m p = s.byteAt p := by
  constructor
  · rintro ⟨hs', hbytes⟩
    exact ⟨s'.expr, hs', hbytes⟩
  · rintro ⟨m, rfl, hbytes⟩
    exact ⟨rfl, hbytes⟩

@[simp] theorem State.withExpr_dvalid : (s.withExpr m).dvalid = s.dvalid := (rfl)
@[simp] theorem State.withExpr_exlen : (s.withExpr m).exlen = s.exlen := (rfl)
@[simp] theorem State.withExpr_diceReady : (s.withExpr m).diceReady = s.diceReady := (rfl)

/-- No register shows a byte of the buffer (R43). -/
@[simp] theorem State.withExpr_regRead (idx : BitVec 6) :
    (s.withExpr m).regRead P idx = s.regRead P idx := by
  unfold State.regRead
  cases regAt idx <;> rfl

/-- `PARSE` reads the bytes below `EXLEN` only (R40, R190). -/
theorem State.withExpr_source (h : ∀ p, p < s.exlen.toNat → Memory.read m p = s.byteAt p) :
    (s.withExpr m).source = s.source :=
  List.map_congr_left fun p hp => h p (List.mem_range.1 hp)

/-- A command other than `PUTC` sees the buffer through the source string only, and leaves it. -/
theorem effect_withExpr {i : Instr} (hputc : ∀ b, i ≠ .putc b)
    (hsource : (s.withExpr m).source = s.source) :
    effect P i (s.withExpr m) = (effect P i s).withExpr m := by
  cases i with
  | putc b => exact absurd rfl (hputc b)
  | parse =>
    rw [effect_parse, effect_parse, hsource]
    cases parseFn s.source <;> rfl
  | sample => rw [effect_sample, effect_sample, State.withExpr_diceReady]; split <;> rfl
  | dmin => rw [effect_dmin, effect_dmin, State.withExpr_dvalid]; split <;> rfl
  | dmax => rw [effect_dmax, effect_dmax, State.withExpr_dvalid]; split <;> rfl
  | _ => rfl

theorem effect_exlen_le {i : Instr} (hputc : ∀ b, i ≠ .putc b) :
    (effect P i s).exlen.toNat ≤ s.exlen.toNat := by
  by_cases hxclr : i = .xclr
  · simp [hxclr, effect_xclr]
  · rw [(effect_answer P s i).exlen_eq hxclr hputc]

/-! ### The relation is kept -/

/-- `PUTC` stores the same byte in both buffers at the one position that becomes reachable. -/
theorem effect_putc_same (b : Byte) (hwf : Memory.wf s.expr) (hwf' : Memory.wf s'.expr)
    (h : sameButUnreachable s s') :
    sameButUnreachable (effect P (.putc b) s) (effect P (.putc b) s') := by
  obtain ⟨m, rfl, hbytes⟩ := sameButUnreachable_iff.1 h
  by_cases hfull : s.exlen.toNat = P.exprMax
  · rw [effect_putc_of_full b hfull, effect_putc_of_full (s := s.withExpr m) b hfull]
    exact sameButUnreachable_iff.2 ⟨m, rfl, hbytes⟩
  · have hexlen : (effect P (.putc b) s).exlen = s.exlen + 1 := by
      simp [effect_putc_of_not_full b hfull]
    refine ⟨?_, fun p hp => ?_⟩
    · rw [effect_putc_of_not_full b hfull, effect_putc_of_not_full (s := s.withExpr m) b hfull]
      rfl
    · have hreach : p < s.exlen.toNat + 1 := (hexlen ▸ hp).trans_le (exlen_succ_le s.exlen)
      by_cases hlast : p = s.exlen.toNat
      · subst hlast
        exact (byteAt_effect_putc_same (s := s.withExpr m) b hwf' hfull).trans
          (byteAt_effect_putc_same b hwf hfull).symm
      · rw [byteAt_effect_putc_other (s := s.withExpr m) b hlast, byteAt_effect_putc_other b hlast]
        exact hbytes p (by omega)

theorem effect_same (i : Instr) (hwf : Memory.wf s.expr) (hwf' : Memory.wf s'.expr)
    (h : sameButUnreachable s s') : sameButUnreachable (effect P i s) (effect P i s') := by
  by_cases hputc : ∃ b, i = .putc b
  · obtain ⟨b, rfl⟩ := hputc
    exact effect_putc_same b hwf hwf' h
  · have hother : ∀ b, i ≠ .putc b := not_exists.1 hputc
    obtain ⟨m, rfl, hbytes⟩ := sameButUnreachable_iff.1 h
    rw [effect_withExpr hother (State.withExpr_source hbytes)]
    refine sameButUnreachable_iff.2 ⟨m, rfl, fun p hp => ?_⟩
    rw [State.byteAt, (effect_answer P s i).expr_eq hother]
    exact hbytes p (hp.trans_le (effect_exlen_le hother))

/-- Where the outcome `o` is a next state, `o'` is one that differs from it at most in unreachable
bytes. -/
def OutcomeSame (o o' : Host.Outcome State Fault Refusal) : Prop :=
  ∀ t, o = .next t → ∃ t', o' = .next t' ∧ sameButUnreachable t t'

theorem OutcomeSame.next (h : sameButUnreachable s s') : OutcomeSame (.next s) (.next s') := by
  rintro _ ⟨⟩
  exact ⟨s', rfl, h⟩

theorem OutcomeSame.refused (r r' : Refusal) : OutcomeSame (.refused r) (.refused r') := by
  rintro _ ⟨⟩

/-- A register write runs the same command on both, or stores the same operand in both. -/
theorem regWrite_same (idx : BitVec 6) (v : Reg) (hwf : Memory.wf s.expr)
    (hwf' : Memory.wf s'.expr) (h : sameButUnreachable s s') :
    OutcomeSame (regWrite (execWith P) idx v s) (regWrite (execWith P) idx v s') := by
  have heffect := fun i => effect_same (P := P) i hwf hwf' h
  obtain ⟨m, rfl, hbytes⟩ := sameButUnreachable_iff.1 h
  unfold regWrite
  cases regAt idx with
  | cmd =>
    cases hdecode : decode v with
    | ok i =>
      simp only [runCommand_of_ok P hdecode]
      exact .next (heffect i)
    | error e =>
      simp only [runCommand_of_error _ hdecode]
      exact .next (sameButUnreachable_iff.2 ⟨m, rfl, hbytes⟩)
  | _ => exact .next (sameButUnreachable_iff.2 ⟨m, rfl, hbytes⟩)

/-- A read returns the same value from both. -/
theorem pushRead_same (idx : BitVec 6) (h : sameButUnreachable s s') :
    sameButUnreachable (s.pushRead (s.regRead P idx)) (s'.pushRead (s'.regRead P idx)) := by
  obtain ⟨m, rfl, hbytes⟩ := sameButUnreachable_iff.1 h
  rw [State.withExpr_regRead]
  exact sameButUnreachable_iff.2 ⟨m, rfl, hbytes⟩

/-- Reset empties both buffers. -/
theorem platformReset_same (v : Variant) (h : sameButUnreachable s s') :
    sameButUnreachable (platformReset v s) (platformReset v s') := by
  obtain ⟨m, rfl, -⟩ := sameButUnreachable_iff.1 h
  exact ⟨rfl, fun _ _ => rfl⟩

theorem perform_same (ev : HostEvent) (hwf : Memory.wf s.expr) (hwf' : Memory.wf s'.expr)
    (h : sameButUnreachable s s') :
    OutcomeSame (perform P (execWith P) ev s) (perform P (execWith P) ev s') := by
  cases ev with
  | write idx v => exact regWrite_same idx v hwf hwf' h
  | read idx => exact .next (pushRead_same idx h)
  | busWrite offset size v =>
    simp only [perform]
    cases busRegister offset size with
    | none => exact .refused _ _
    | some idx => exact regWrite_same idx v hwf hwf' h
  | busRead offset size =>
    simp only [perform]
    cases busRegister offset size with
    | none => exact .refused _ _
    | some idx => exact .next (pushRead_same idx h)
  | reset vsel =>
    simp only [perform]
    cases strapVariant vsel with
    | none => exact .refused _ _
    | some v => exact .next (platformReset_same v h)

/-- One step: both states have the same events pending. -/
theorem stepWith_same (hwf : Memory.wf s.expr) (hwf' : Memory.wf s'.expr)
    (h : sameButUnreachable s s') : OutcomeSame (stepWith P s) (stepWith P s') := by
  obtain ⟨m, rfl, hbytes⟩ := sameButUnreachable_iff.1 h
  cases hhost : s.host with
  | nil =>
    rw [stepWith_of_nil P hhost, stepWith_of_nil P (s := s.withExpr m) hhost]
    exact .next h
  | cons ev rest =>
    rw [stepWith_of_cons P hhost, stepWith_of_cons P (s := s.withExpr m) hhost]
    exact perform_same ev hwf hwf' (sameButUnreachable_iff.2 ⟨m, rfl, hbytes⟩)

/-- Settles O26: of the invariant the step needs that both buffers are canonical. -/
theorem unreachableBytesAreNeverObserved : Obligations.UnreachableBytesAreNeverObserved := by
  unfold Obligations.UnreachableBytesAreNeverObserved
  constructor
  · rintro P s s' t ⟨⟨hwf, -⟩, -⟩ ⟨⟨hwf', -⟩, -⟩ h
    exact stepWith_same hwf hwf' h t
  · rintro s s' t ⟨⟨hwf, -⟩, -⟩ ⟨⟨hwf', -⟩, -⟩ h
    exact step_eq_stepWith ▸ stepWith_same hwf hwf' h t

end Sys2Proof.Machine
end

section
/-! O51 and O14. What commands do not depend on: none reads `INIT`, and no report depends on the words of
`S`; the all-zero state (spec/10_state.md R22, R31). -/

namespace Sys2Proof.Machine

variable {P : Params} {s : State}

@[simp] theorem State.setInit_diceReady (b : Bool) : (s.setInit b).diceReady = s.diceReady := (rfl)

@[simp] theorem State.setEngine_diceReady (e : Engine) :
    (s.setEngine e).diceReady = s.diceReady := (rfl)

/-- No command reads `INIT` (R31): changed beforehand, it is all that can differ afterwards. -/
theorem effect_setInit (i : Instr) (b : Bool) :
    (effect P i (s.setInit b)).setInit (effect P i s).init = effect P i s := by
  cases i with
  | putc _ => rw [effect_putc, effect_putc, State.setInit_exlen]; split <;> rfl
  | parse =>
    rw [effect_parse, effect_parse, State.setInit_source]
    cases parseFn s.source <;> rfl
  | sample => rw [effect_sample, effect_sample, State.setInit_diceReady]; split <;> rfl
  | dmin => rw [effect_dmin, effect_dmin, State.setInit_dvalid]; split <;> rfl
  | dmax => rw [effect_dmax, effect_dmax, State.setInit_dvalid]; split <;> rfl
  | _ => rfl

/-- Settles O51. -/
theorem initIsWrittenByFourCommands : Obligations.InitIsWrittenByFourCommands := by
  unfold Obligations.InitIsWrittenByFourCommands
  refine ⟨fun _ _ => rfl, fun i s => ⟨effect hardware i s, exec_eq_effect i s, ?_, ?_, ?_, ?_⟩⟩
  · exact (effect_answer hardware s i).init_of_assigning
  · rintro rfl
    exact (effect_answer hardware s .clr).init_of_clr
  · exact (effect_answer hardware s i).init_eq
  · exact fun b => ⟨_, exec_eq_effect i (s.setInit b), effect_setInit i b⟩

/-- Whether a command fails, and with which code, is decided without `S` (R22). -/
theorem effect_setEngine_report (i : Instr) (e : Engine) :
    (effect P i (s.setEngine e)).err = (effect P i s).err ∧
      (effect P i (s.setEngine e)).ecode = (effect P i s).ecode := by
  cases i with
  | putc _ => rw [effect_putc, effect_putc, State.setEngine_exlen]; split <;> exact ⟨rfl, rfl⟩
  | parse =>
    rw [effect_parse, effect_parse, State.setEngine_source]
    cases parseFn s.source <;> exact ⟨rfl, rfl⟩
  | sample =>
    rw [effect_sample, effect_sample, State.setEngine_diceReady]
    split <;> exact ⟨rfl, rfl⟩
  | dmin => rw [effect_dmin, effect_dmin, State.setEngine_dvalid]; split <;> exact ⟨rfl, rfl⟩
  | dmax => rw [effect_dmax, effect_dmax, State.setEngine_dvalid]; split <;> exact ⟨rfl, rfl⟩
  | _ => exact ⟨rfl, rfl⟩

theorem Engine.outWord_of_isZero (K : ConstTable) {e : Engine} (h : e.isZero = true) (n : Nat) :
    e.outWord K n = 0 := by
  rw [Engine.outWord, Engine.advance_of_isZero K h, Engine.scramble_of_isZero K h]

theorem Engine.isZero_load_zero (e : Engine) : (e.load ⟨0, 0, 0, 0⟩).isZero = true := by
  cases e <;> rfl

/-- Settles O14. -/
theorem allZeroStateIsAFixedPoint : Obligations.AllZeroStateIsAFixedPoint := by
  unfold Obligations.AllZeroStateIsAFixedPoint
  refine ⟨fun K e h n => ⟨Engine.advance_of_isZero K h n, Engine.outWord_of_isZero K h n⟩,
    fun s hsin => ⟨_, exec_eq_effect .ldst s, ?_, ?_, ?_⟩,
    fun i s q => ⟨_, _, exec_eq_effect i s, exec_eq_effect i (s.setEngine (s.engine.load q)),
      effect_setEngine_report i _⟩⟩
  · simpa [effect_ldst, hsin] using s.engine.isZero_load_zero
  · simp [effect_ldst]
  · simp [effect_ldst]

end Sys2Proof.Machine
end

section
/-! O38, O40, O41. The host's register accesses: the register map, a read, a write
(spec/10_state.md R26 to R29). -/

namespace Sys2Proof.Machine

variable {P : Params} {s : State} {idx : BitVec 6} {v : Reg} {rest : List HostEvent}

/-! ### The map -/

theorem regAt_sin {i : Fin 4} (h : idx.toNat = 0x08 + i.val) : regAt idx = .sin i := by
  revert i idx; decide

theorem regAt_sout {i : Fin 4} (h : idx.toNat = 0x0C + i.val) : regAt idx = .sout i := by
  revert i idx; decide

theorem regAt_of_reads_zero
    (h : idx.toNat = 0x00 ∨ idx.toNat = 0x06 ∨ idx.toNat = 0x07 ∨ 0x14 ≤ idx.toNat) :
    regAt idx = .cmd ∨ regAt idx = .reserved := by
  revert idx; decide

theorem regAt_of_ignores_writes
    (h : idx.toNat = 0x01 ∨ (0x04 ≤ idx.toNat ∧ idx.toNat ≤ 0x07) ∨ 0x0C ≤ idx.toNat) :
    regAt idx ≠ .cmd ∧ regAt idx ≠ .arg0 ∧ regAt idx ≠ .arg1 ∧ ∀ i, regAt idx ≠ .sin i := by
  revert idx; decide

/-! ### Reads -/

@[simp] theorem State.setHost_regRead (idx : BitVec 6) :
    (s.setHost rest).regRead P idx = s.regRead P idx := by
  unfold State.regRead
  cases regAt idx <;> rfl

theorem step_of_read (h : s.host = .read idx :: rest) :
    step s = .next { s with host := rest, reads := s.reads ++ [s.regRead hardware idx] } := by
  rw [step_of_cons h, perform, State.setHost_regRead]
  rfl

/-- Settles O40: each index selects its register, and the value read is that register's. -/
theorem regReadFollowsTheRegisterMap : Obligations.RegReadFollowsTheRegisterMap := by
  unfold Obligations.RegReadFollowsTheRegisterMap
  intro s idx rest hhost
  refine ⟨s.regRead hardware idx, step_of_read hhost, fun h => ?_, fun h => ?_, fun h => ?_,
    fun h => ?_, fun h => ?_, fun i h => ?_, fun i h => ?_, fun h => ?_, fun h => ?_, fun h => ?_,
    fun h => ?_, fun h => ?_⟩
  · simp only [State.regRead, regAt, h]
  · simp only [State.regRead, regAt, h]
  · simp only [State.regRead, regAt, h]
  · simp only [State.regRead, regAt, h]
  · simp only [State.regRead, regAt, h]
  · simp only [State.regRead, regAt_sin h]
  · simp only [State.regRead, regAt_sout h]
  · simpa only [State.regRead, regAt, h] using (toInt_signExtend s.count).1
  · simpa only [State.regRead, regAt, h] using (toInt_signExtend s.sides).1
  · simpa only [State.regRead, regAt, h] using (toInt_signExtend s.modifier).1
  · simpa only [State.regRead, regAt, h] using BitVec.toNat_setWidth_of_le (by decide)
  · rcases regAt_of_reads_zero h with hreg | hreg <;> simp only [State.regRead, hreg]

/-! ### Writes -/

theorem step_of_write (h : s.host = .write idx v :: rest) :
    step s = regWrite exec idx v (s.setHost rest) := step_of_cons h

/-- A read-only or reserved register ignores the write (R28). -/
theorem regWrite_of_ignores_writes
    (h : idx.toNat = 0x01 ∨ (0x04 ≤ idx.toNat ∧ idx.toNat ≤ 0x07) ∨ 0x0C ≤ idx.toNat) :
    regWrite (execWith P) idx v s = .next s := by
  obtain ⟨hcmd, harg0, harg1, hsin⟩ := regAt_of_ignores_writes h
  rcases regWrite_cases P idx v s with
    ⟨_, -, hreg, -⟩ | ⟨_, -, hreg, -⟩ | ⟨hreg, -⟩ | ⟨hreg, -⟩ | ⟨i, hreg, -⟩ | hkept
  · exact absurd hreg hcmd
  · exact absurd hreg hcmd
  · exact absurd hreg harg0
  · exact absurd hreg harg1
  · exact absurd hreg (hsin i)
  · exact hkept

theorem regWrite_cmd (run : Executor) {i : Instr} (h : decode v = .ok i) :
    regWrite run 0 v s = run i s := by
  have hcmd : regWrite run 0 v s = runCommand run v s := rfl
  rw [hcmd, runCommand, h]

theorem Quad.get_set_same {w : Nat} (q : Quad w) (i : Fin 4) (x : BitVec w) :
    (q.set i x).get i = x := by
  fin_cases i <;> rfl

theorem Quad.get_set_other {w : Nat} (q : Quad w) {i j : Fin 4} (x : BitVec w) (h : j ≠ i) :
    (q.set i x).get j = q.get j := by
  revert h
  fin_cases i <;> fin_cases j <;> simp [Quad.set, Quad.get]

/-- Settles O41. -/
theorem regWriteStoresOrIsIgnored : Obligations.RegWriteStoresOrIsIgnored := by
  unfold Obligations.RegWriteStoresOrIsIgnored
  intro s idx v rest hhost
  rw [step_of_write hhost]
  refine ⟨fun h => ?_, fun h => ?_, fun i h => ⟨s.sin.set i v, ?_, Quad.get_set_same _ i v,
    fun j hj => Quad.get_set_other _ v hj⟩, fun h => ?_⟩
  · simp only [regWrite, regAt, h]
    rfl
  · simp only [regWrite, regAt, h]
    rfl
  · simp only [regWrite, regAt_sin h]
    rfl
  · rw [exec_eq_execWith]
    exact regWrite_of_ignores_writes h

/-- Settles O38. -/
theorem stepRunsTheDecodedCommand : Obligations.StepRunsTheDecodedCommand := by
  unfold Obligations.StepRunsTheDecodedCommand
  refine ⟨fun s idx v rest hhost => ⟨step_of_write hhost, ?_⟩,
    fun P s idx v rest hhost => ⟨stepWith_of_cons P hhost, ?_⟩,
    fun i s => by rw [exec_eq_execWith], fun s => by rw [step_eq_stepWith]⟩
  · rintro i rfl hdecode
    exact (step_of_write hhost).trans (regWrite_cmd exec hdecode)
  · rintro i rfl hdecode
    exact (stepWith_of_cons P hhost).trans (regWrite_cmd (execWith P) hdecode)

end Sys2Proof.Machine
end

section
/-! O42, O43, O44. The read-only views `STATUS` and `ID` as numbers, and the registers after reset
(spec/10_state.md R21, R30, R32, R36, R43). -/

namespace Sys2Proof.Machine

variable {P : Params} {s : State}

/-- A concatenation of fields as a number. -/
theorem toNat_append_add {m n : Nat} (x : BitVec m) (y : BitVec n) :
    (x ++ y).toNat = x.toNat * 2 ^ n + y.toNat := by
  rw [BitVec.toNat_append, ← Nat.shiftLeft_add_eq_or_of_lt y.isLt, Nat.shiftLeft_eq]

theorem statusWord_toNat (s : State) : s.statusWord.toNat =
    s.init.toNat + 2 * s.zeroFlag.toNat + 4 * s.dvalid.toNat + 8 * s.err.toNat
      + 16 * s.ecode.toNat := by
  simp only [State.statusWord, toNat_append_add, BitVec.toNat_ofBool, BitVec.toNat_ofNat]
  omega

/-- Beyond `N` the words are 0 for every engine, so all four are 0 when the first `N` are. -/
theorem Engine.isZero_iff_get (e : Engine) :
    e.isZero = true ↔ ∀ i : Fin 4, i.val < wordCount e.variant → e.words.get i = 0 := by
  rw [Engine.isZero_iff_words]
  constructor
  · intro h i _
    rw [h]
    exact Quad.get_zero 64 i
  · intro h
    have hall (i : Fin 4) : e.words.get i = 0 :=
      (lt_or_ge i.val (wordCount e.variant)).elim (h i) (e.words_bounds i).2
    exact Quad.mk.injEq .. ▸ ⟨hall 0, hall 1, hall 2, hall 3⟩

/-- Settles O42. -/
theorem statusReadsItsFields : Obligations.StatusReadsItsFields := by
  unfold Obligations.StatusReadsItsFields
  exact fun s => ⟨statusWord_toNat s, s.engine.isZero_iff_get⟩

theorem wordWidth_lt (v : Variant) : wordWidth v < 2 ^ 8 := by cases v <;> decide

theorem wordCount_lt (v : Variant) : wordCount v < 2 ^ 4 := by cases v <;> decide

theorem warmupCount_lt (wu : Warmup) : warmupCount wu < 2 ^ 2 := by cases wu <;> decide

/-- Every parameter fits its field of `ID` (R36). -/
theorem idWord_toNat (h : exprMaxOk P.exprMax = true) : (s.idWord P).toNat =
    (vselCode s.engine.variant).toNat + 16 * wordCount s.engine.variant
      + 2 ^ 8 * wordWidth s.engine.variant + 2 ^ 16 * warmupCount s.warmup
      + 2 ^ 24 * P.exprMax := by
  obtain ⟨-, hmax⟩ : 1 ≤ P.exprMax ∧ P.exprMax ≤ 255 := by simpa [exprMaxOk] using h
  have hfits : P.exprMax < 2 ^ 8 := by omega
  simp only [State.idWord, toNat_append_add, BitVec.toNat_ofNat, Nat.mod_eq_of_lt hfits,
    Nat.mod_eq_of_lt (warmupCount_lt _), Nat.mod_eq_of_lt (wordWidth_lt _),
    Nat.mod_eq_of_lt (wordCount_lt _)]
  omega

/-- Settles O43. -/
theorem idReadsTheParameters : Obligations.IdReadsTheParameters := by
  unfold Obligations.IdReadsTheParameters
  refine ⟨fun P s h => idWord_toNat h, rfl, rfl, rfl, rfl, rfl, by decide, fun _ => ⟨rfl, rfl, rfl⟩,
    fun _ => ⟨rfl, rfl, rfl⟩, fun _ => ⟨rfl, rfl, rfl⟩, fun _ => ⟨rfl, rfl⟩, fun v => ?_⟩
  cases v <;> decide

/-- `STATUS` after reset: only `ZERO` is set (R43). -/
theorem statusWord_resetFor (v : Variant) (wu : Warmup) :
    (State.resetFor v wu).statusWord = 0x02#64 := by
  have hzero : (State.resetFor v wu).zeroFlag = true := Engine.isZero_zero v
  apply BitVec.eq_of_toNat_eq
  rw [statusWord_toNat, hzero]
  rfl

/-- Settles O44. -/
theorem resetLeavesTheSpecsValues : Obligations.ResetLeavesTheSpecsValues := by
  unfold Obligations.ResetLeavesTheSpecsValues
  have hzero (v : Variant) := Engine.isZero_zero v
  exact ⟨fun v wu => ⟨_, rfl, Engine.variant_zero v, rfl, (Engine.isZero_iff_words _).1 (hzero v),
    rfl, hzero v, rfl, rfl, rfl, rfl, rfl, rfl, rfl, rfl, rfl, rfl, rfl, rfl,
    statusWord_resetFor v wu⟩, _, _, rfl⟩

end Sys2Proof.Machine
end

section
/-! O46, O47, O48, O60. The host's accesses: the bus access is the register access, what is refused, the order
of accesses, and the bytes of the raw export (spec/20_memory.md R52, R54, R55, R60). -/

namespace Sys2Proof.Machine

variable {P : Params} {run : Executor} {s : State} {ev : HostEvent} {rest : List HostEvent}

/-! ### The bus access -/

theorem perform_busWrite_of_index (idx : BitVec 6) (v : Reg) :
    perform P run (.busWrite (8 * idx.toNat) 8 v) s = perform P run (.write idx v) s := by
  simp only [perform, busRegister_of_index]

theorem perform_busRead_of_index (idx : BitVec 6) :
    perform P run (.busRead (8 * idx.toNat) 8) s = perform P run (.read idx) s := by
  simp only [perform, busRegister_of_index]

/-- Settles O46. -/
theorem busAccessIsTheRegisterAccess : Obligations.BusAccessIsTheRegisterAccess := by
  unfold Obligations.BusAccessIsTheRegisterAccess
  intro s idx v rest
  rw [step_of_cons rfl, step_of_cons rfl, step_of_cons rfl, step_of_cons rfl]
  exact ⟨perform_busWrite_of_index idx v, perform_busRead_of_index idx⟩

/-! ### What is refused -/

/-- An event is refused exactly when it is none of the block's: a command never is. -/
theorem perform_refused_iff :
    (∃ r, perform P (execWith P) ev s = .refused r) ↔ eventOk ev = false := by
  rcases perform_cases P (execWith P) ev s with
    ⟨hok, -, idx, v, h⟩ | ⟨hok, -, v, h⟩ | ⟨hok, -, v, h⟩ | ⟨hbad, hrefused⟩
  · obtain ⟨t, ht⟩ := regWrite_next P idx v s
    simp [h, ht, hok]
  · simp [h, hok]
  · simp [h, hok]
  · exact iff_of_true hrefused hbad

theorem stepWith_refused_iff : (∃ r, stepWith P s = .refused r) ↔
    ∃ ev rest, s.host = ev :: rest ∧ eventOk ev = false := by
  cases hhost : s.host with
  | nil => simp [stepWith_of_nil P hhost]
  | cons ev rest => simp [stepWith_of_cons P hhost, perform_refused_iff]

/-- Settles O47: no fault exists, and a command's answer is its `effect`. -/
theorem onlyIllegalEventsAreRefused : Obligations.OnlyIllegalEventsAreRefused := by
  unfold Obligations.OnlyIllegalEventsAreRefused
  exact ⟨fun s => step_eq_stepWith ▸ stepWith_refused_iff, fun _ => nofun,
    fun i s => ⟨_, exec_eq_effect i s⟩⟩

/-! ### The order of accesses -/

theorem run_of_step {M : Host.Core} {k : Nat} {s t : M.State} (h : M.step s = .next t) :
    M.run (k + 1) s = M.run k t := by
  rw [Host.Core.run, h]

theorem step_of_arg0_write {v : Reg} (h : s.host = .write 2 v :: rest) :
    step s = .next { s with host := rest, arg0 := v } := step_of_write h

/-- A command written to `CMD` is one step: it takes the access off the queue and returns no value. -/
theorem step_of_command {i : Instr} {v : Reg} (h : s.host = .write 0 v :: rest)
    (hdecode : decode v = .ok i) : ∃ t, exec i { s with host := rest } = .next t ∧
      step s = .next t ∧ t.host = rest ∧ t.reads = s.reads := by
  have hexec := exec_eq_effect i { s with host := rest }
  obtain ⟨-, -, -, hhost, hreads⟩ := (answer_of_exec hexec).operands_and_host_eq
  exact ⟨_, hexec, (step_of_write h).trans ((regWrite_cmd exec hdecode).trans hexec), hhost, hreads⟩

theorem step_of_res_read (h : s.host = .read 4 :: rest) :
    step s = .next { s with host := rest, reads := s.reads ++ [s.res] } := step_of_read h

/-- Settles O48: each of the four steps takes the first access of the queue. -/
theorem accessesArePerformedInHostOrder : Obligations.AccessesArePerformedInHostOrder := by
  unfold Obligations.AccessesArePerformedInHostOrder
  intro s x rest hhost
  have hwrite := step_of_arg0_write hhost
  obtain ⟨t, hseed, hseedStep, hthost, htreads⟩ := step_of_command (i := .seed1)
    (s := { s with
      host := .write 0 (encode .seed1) :: .write 0 (encode .next) :: .read 4 :: rest, arg0 := x })
    rfl (by decide)
  obtain ⟨u, hnext, hnextStep, huhost, hureads⟩ :=
    step_of_command (i := .next) hthost (by decide)
  have hread : step u = .next { u with host := rest, reads := s.reads ++ [u.res] } := by
    rw [step_of_res_read huhost, hureads, htreads]
  refine ⟨t, u, { u with host := rest, reads := s.reads ++ [u.res] }, hseed, hnext, ?_, rfl, rfl, rfl⟩
  rw [run_of_step hwrite, run_of_step hseedStep, run_of_step hnextStep, run_of_step hread,
    Host.Core.run]

/-! ### The raw export -/

/-- The low `n` bytes of a number are its digits in base 256. -/
theorem ofDigits_lowBytes (x n : Nat) :
    Nat.ofDigits 256 ((List.range n).map fun k => x / 256 ^ k % 256) = x % 256 ^ n := by
  induction n with
  | zero => simp [Nat.mod_one]
  | succ n ih =>
    rw [List.range_succ, List.map_append, Nat.ofDigits_append, ih, Nat.mod_pow_succ]
    simp

/-- The export read as a number, its first byte least significant. -/
theorem foldr_rawExport (n : Nat) (res : Reg) :
    (rawExport .little (8 * n) res).foldr (fun b acc => b.toNat + 256 * acc) 0 =
      res.toNat % 2 ^ (8 * n) := by
  have hbyte (k : Nat) : (res.extractLsb' (8 * k) 8).toNat = res.toNat / 256 ^ k % 256 := by
    rw [BitVec.extractLsb'_toNat, Nat.shiftRight_eq_div_pow, Nat.pow_mul]
  have hdigits := ofDigits_lowBytes res.toNat n
  rw [Nat.ofDigits_eq_foldr, List.foldr_map] at hdigits
  rw [rawExport, List.foldr_map, Nat.pow_mul]
  simpa [hbyte] using hdigits

theorem wordWidth_eq_bytes (v : Variant) : wordWidth v = 8 * (wordWidth v / 8) := by
  cases v <;> rfl

/-- Settles O60: this hardware exports the least significant byte first. -/
theorem rawExportIsLittleEndian : Obligations.RawExportIsLittleEndian := by
  unfold Obligations.RawExportIsLittleEndian
  intro v res
  constructor
  · simp [rawExport, byteOrder]
  · rw [wordWidth_eq_bytes v]
    exact foldr_rawExport (wordWidth v / 8) res

end Sys2Proof.Machine
end

section
/-! O34, O35, O36, O37. The command word: the decoder by the four fields of a value, encoding, the opcode
table, and illegal values (spec/30_encoding.md R70, R71, R74, R82, R91, R93). -/

namespace Sys2Proof.Machine

variable {i : Instr} {v : Reg}

/-! ### The decoder by fields -/

/-- A command's opcode selects its row (R74). -/
theorem opcodeRow_opcode (i : Instr) : opcodeRow (opcode i) (immediate i) = some i := by
  cases i <;> rfl

/-- Only `PUTC` has an immediate (R70, R82). -/
theorem immediate_eq_zero (h : opcode i ≠ 0x11#8) : immediate i = 0 := by
  cases i with
  | putc b => exact absurd rfl h
  | _ => rfl

/-- A value decodes to the command whose four fields it has, and to no other (R70, R71). -/
theorem decode_eq_ok_iff_fields : decode v = .ok i ↔
    aboveWord v = 0#32 ∧ rsvField v = 0#16 ∧ opField v = opcode i ∧ immField v = immediate i := by
  refine ⟨fields_of_decode, fun ⟨habove, hrsv, hop, himm⟩ => ?_⟩
  have hlegal : ¬(opcode i ≠ 0x11#8 ∧ immediate i ≠ 0#8) := fun h => h.2 (immediate_eq_zero h.1)
  simp only [decode, habove, hrsv, hop, himm, opcodeRow_opcode, ne_eq, not_true_eq_false, if_false]
  exact if_neg hlegal

/-! ### Encoding -/

theorem append_inj {m n : Nat} {x x' : BitVec m} {y y' : BitVec n} :
    x ++ y = x' ++ y' ↔ x = x' ∧ y = y' := by
  refine ⟨fun h => ⟨?_, ?_⟩, fun ⟨hx, hy⟩ => hx ▸ hy ▸ rfl⟩
  · simpa only [BitVec.extractLsb'_append_eq_left] using congrArg (·.extractLsb' n m) h
  · simpa only [BitVec.extractLsb'_append_eq_right] using congrArg (·.extractLsb' 0 n) h

/-- An encoding, field by field (R70, R91). -/
theorem encode_eq_fields (i : Instr) : encode i = 0#32 ++ 0#16 ++ immediate i ++ opcode i := by
  rw [BitVec.zero_append_zero]
  rfl

/-- The one value of a command: a value is its four fields, so it decodes exactly from its encoding. -/
theorem decode_eq_ok_iff_encode : decode v = .ok i ↔ encode i = v := by
  have hfields : v = encode i ↔ aboveWord v ++ rsvField v ++ immField v ++ opField v =
      0#32 ++ 0#16 ++ immediate i ++ opcode i := by
    rw [fields_append, encode_eq_fields]
  rw [decode_eq_ok_iff_fields, eq_comm (a := encode i), hfields, append_inj, append_inj, append_inj]
  exact ⟨fun ⟨ha, hr, ho, hi⟩ => ⟨⟨⟨ha, hr⟩, hi⟩, ho⟩, fun ⟨⟨⟨ha, hr⟩, hi⟩, ho⟩ => ⟨ha, hr, ho, hi⟩⟩

/-- Settles O34: both directions are `decode_eq_ok_iff_encode`. -/
theorem decodeAndEncodeAgree : Obligations.DecodeAndEncodeAgree := by
  unfold Obligations.DecodeAndEncodeAgree
  exact ⟨fun _ => decode_eq_ok_iff_encode.2 rfl, fun _ _ => decode_eq_ok_iff_encode.1⟩

/-- Settles O36: ten closed words, on which the decoder is evaluated. -/
theorem workedEncodingsDecode : Obligations.WorkedEncodingsDecode := by
  unfold Obligations.WorkedEncodingsDecode
  decide

/-! ### The fields as numbers -/

theorem opField_toNat (v : Reg) : (opField v).toNat = v.toNat % 2 ^ 8 := by
  rw [opField, BitVec.extractLsb'_toNat, Nat.shiftRight_zero]

theorem opField_eq_ofNat (v : Reg) : opField v = BitVec.ofNat 8 v.toNat := by
  apply BitVec.eq_of_toNat_eq
  rw [opField_toNat, BitVec.toNat_ofNat]

theorem immField_toNat (v : Reg) : (immField v).toNat = v.toNat / 2 ^ 8 % 2 ^ 8 := by
  rw [immField, BitVec.extractLsb'_toNat, Nat.shiftRight_eq_div_pow]

theorem rsvField_toNat (v : Reg) : (rsvField v).toNat = v.toNat / 2 ^ 16 % 2 ^ 16 := by
  rw [rsvField, BitVec.extractLsb'_toNat, Nat.shiftRight_eq_div_pow]

theorem aboveWord_toNat (v : Reg) : (aboveWord v).toNat = v.toNat / 2 ^ 32 := by
  have hlt : v.toNat / 2 ^ 32 < 2 ^ 32 := by omega
  rw [aboveWord, BitVec.extractLsb'_toNat, Nat.shiftRight_eq_div_pow, Nat.mod_eq_of_lt hlt]

theorem aboveWord_eq_zero_iff (v : Reg) : aboveWord v = 0#32 ↔ v.toNat < 2 ^ 32 := by
  rw [← BitVec.toNat_inj, aboveWord_toNat, BitVec.toNat_ofNat]
  omega

/-! ### The opcode table -/

/-- The command word of a value is its three low fields (R70). -/
theorem setWidth_eq_fields (v : Reg) : v.setWidth 32 = rsvField v ++ immField v ++ opField v := by
  apply BitVec.eq_of_toNat_eq
  rw [BitVec.toNat_setWidth, toNat_append_add, toNat_append_add, rsvField_toNat, immField_toNat,
    opField_toNat]
  omega

/-- A row's mask takes `rsv` and `op` in full, and `imm8` unless the row is `PUTC`'s (R74). -/
theorem tableMask_eq_fields (i : Instr) : tableMask i = BitVec.allOnes 16 ++
    (if opcode i = 0x11#8 then 0#8 else BitVec.allOnes 8) ++ BitVec.allOnes 8 := by
  cases i <;> simp [tableMask, opcode]

theorem tableMatch_eq_fields (i : Instr) : tableMatch i = 0#16 ++ 0#8 ++ opcode i := by
  cases i <;> simp [tableMatch, opcode]

/-- What it is for a word to select a row, field by field (R74). -/
theorem word_selects_row_iff : v.setWidth 32 &&& tableMask i = tableMatch i ↔
    rsvField v = 0#16 ∧ (opcode i ≠ 0x11#8 → immField v = 0#8) ∧ opField v = opcode i := by
  rw [setWidth_eq_fields, tableMask_eq_fields, tableMatch_eq_fields, BitVec.and_append,
    BitVec.and_append, append_inj, append_inj, BitVec.and_allOnes, BitVec.and_allOnes, and_assoc]
  by_cases hputc : opcode i = 0x11#8
  · rw [if_pos hputc, BitVec.and_zero]
    simp [hputc]
  · rw [if_neg hputc, BitVec.and_allOnes]
    simp [hputc]

/-- What the row and the operand of `PUTC` together say of `imm8`. -/
theorem immField_eq_immediate_iff : immField v = immediate i ↔
    (opcode i ≠ 0x11#8 → immField v = 0#8) ∧
      ∀ b, i = .putc b → b.toNat = v.toNat / 2 ^ 8 % 2 ^ 8 := by
  cases i with
  | putc b =>
    rw [← immField_toNat]
    simp [immediate, opcode, BitVec.toNat_inj, eq_comm]
  | _ => simp [immediate, opcode]

/-- Settles O35: `decode_eq_ok_iff_fields`, the fields read off the row. -/
theorem decodeFollowsTheOpcodeTable : Obligations.DecodeFollowsTheOpcodeTable := by
  unfold Obligations.DecodeFollowsTheOpcodeTable
  intro v i
  rw [decode_eq_ok_iff_fields, word_selects_row_iff, immField_eq_immediate_iff,
    aboveWord_eq_zero_iff]
  tauto

/-! ### Illegal values -/

theorem opcodeAssigned_opcode (i : Instr) : opcodeAssigned (opcode i) = true := by
  cases i <;> rfl

/-- A value that meets one of R82's conditions decodes to no command. -/
theorem decode_ne_ok_of_illegal (h : v.toNat / 2 ^ 32 ≠ 0 ∨ v.toNat / 2 ^ 16 % 2 ^ 16 ≠ 0 ∨
    opcodeAssigned (BitVec.ofNat 8 v.toNat) = false ∨
    (v.toNat / 2 ^ 8 % 2 ^ 8 ≠ 0 ∧ v.toNat % 2 ^ 8 ≠ 0x11)) (i : Instr) : decode v ≠ .ok i := by
  intro hdecode
  obtain ⟨habove, hrsv, hop, himm⟩ := fields_of_decode hdecode
  rw [← aboveWord_toNat, ← rsvField_toNat, ← immField_toNat, ← opField_toNat, ← opField_eq_ofNat,
    habove, hrsv, hop, himm, opcodeAssigned_opcode] at h
  rcases h with h | h | h | ⟨hne, hputc⟩
  · exact h rfl
  · exact h rfl
  · cases h
  · have hop' : opcode i ≠ 0x11#8 := fun h => hputc (congrArg BitVec.toNat h)
    exact hne (congrArg BitVec.toNat (immediate_eq_zero hop'))

theorem regWrite_cmd_of_error (run : Executor) {e : Illegal} (h : decode v = .error e) (s : State) :
    regWrite run 0 v s = .next (s.setError .ill) := runCommand_of_error run h s

/-- Settles O37: the value decodes to no command, and every illegal value has one outcome. -/
theorem illegalWordsReportEIll : Obligations.IllegalWordsReportEIll := by
  unfold Obligations.IllegalWordsReportEIll
  intro run s v h
  cases hdecode : decode v with
  | ok i => exact absurd hdecode (decode_ne_ok_of_illegal h i)
  | error e => exact regWrite_cmd_of_error run hdecode s

end Sys2Proof.Machine
end

section
/-! O1 to O8. The engine state commands: what a chain of the expander holds, each command as a whole next state,
and a load of the words of an engine (spec/40_engine_state_ops.md R101 to R113; spec/42_seed_expander.md R173). -/

namespace Sys2Proof.Machine

variable {P : Params} {s s' : State}

/-! ### Words given by index -/

theorem Quad.eq_of_get {w : Nat} {q q' : Quad w} (h : ∀ i, q.get i = q'.get i) : q = q' := by
  cases q
  cases q'
  exact Quad.mk.injEq .. ▸ ⟨h 0, h 1, h 2, h 3⟩

theorem seedChain_get (f : Reg → Reg) (x : Reg) (i : Fin 4) :
    (seedChain f x).get i = f^[i.val + 1] x := by
  fin_cases i <;> rfl

theorem seedChains_get (f : Reg → Reg) (x y : Reg) (i : Fin 4) :
    (seedChains f x y).get i = f^[i.val / 2 + 1] (if i.val % 2 = 0 then x else y) := by
  fin_cases i <;> rfl

/-! ### Whole next states -/

theorem Engine.seeded_eq_iterate (K : ConstTable) (wu : Warmup) (q : Quad 64) (e : Engine) :
    e.seeded K wu q = (fun x => (nextFn K x).2)^[warmupCount wu] (e.load q) :=
  Engine.advance_eq_iterate K _ _

/-- A new state of the generator and a clean report, as one record. -/
theorem setEngine_setInit_clearError_eq (e : Engine) (b : Bool) :
    ((s.setEngine e).setInit b).clearError =
      { s with engine := e, init := b, err := false, ecode := 0 } := (rfl)

theorem execWith_seed1 (P : Params) (s : State) : execWith P .seed1 s = .next { s with
    engine := (fun x => (nextFn P.const x).2)^[warmupCount s.warmup]
      (s.engine.load (seedChain P.expand s.arg0)),
    init := true, err := false, ecode := 0 } := by
  rw [execWith_eq_effect, effect_seed1, Engine.seeded_eq_iterate, setEngine_setInit_clearError_eq]

theorem execWith_seed2 (P : Params) (s : State) : execWith P .seed2 s = .next { s with
    engine := (fun x => (nextFn P.const x).2)^[warmupCount s.warmup]
      (s.engine.load (seedChains P.expand s.arg0 s.arg1)),
    init := true, err := false, ecode := 0 } := by
  rw [execWith_eq_effect, effect_seed2, Engine.seeded_eq_iterate, setEngine_setInit_clearError_eq]

/-- Settles O3: the engine before the warm-up is the load of the chain of `ARG0`. -/
theorem seed1ExpandsTheSeedAndWarmsUp : Obligations.Seed1ExpandsTheSeedAndWarmsUp := by
  unfold Obligations.Seed1ExpandsTheSeedAndWarmsUp
  refine ⟨decode_eq_ok_iff_encode.2 rfl,
    fun P s => ⟨_, Engine.variant_load _ _, fun i => ?_, execWith_seed1 P s⟩,
    fun s => ⟨_, Engine.variant_load _ _, fun i => ?_, exec_eq_execWith ▸ execWith_seed1 hardware s⟩⟩
  · rw [Engine.words_load, seedChain_get]
  · rw [Engine.words_load, seedChain_get, hardware_expand]

/-- Settles O4: the engine before the warm-up is the load of the two chains. -/
theorem seed2InterleavesTwoChains : Obligations.Seed2InterleavesTwoChains := by
  unfold Obligations.Seed2InterleavesTwoChains
  refine ⟨decode_eq_ok_iff_encode.2 rfl,
    fun P s => ⟨_, Engine.variant_load _ _, fun i => ?_, execWith_seed2 P s⟩,
    fun s => ⟨_, Engine.variant_load _ _, fun i => ?_, exec_eq_execWith ▸ execWith_seed2 hardware s⟩⟩
  · rw [Engine.words_load, seedChains_get]
  · rw [Engine.words_load, seedChains_get, hardware_expand]

/-- Settles O5. -/
theorem ldstLoadsTheStagedWords : Obligations.LdstLoadsTheStagedWords := by
  unfold Obligations.LdstLoadsTheStagedWords
  refine ⟨decode_eq_ok_iff_encode.2 rfl, fun s => ⟨s.engine.load s.sin, Engine.variant_load _ _,
    s.engine.words_load s.sin, ?_⟩⟩
  rw [exec_eq_effect, effect_ldst, setEngine_setInit_clearError_eq]

/-- The warm-up count 2 is one transition more (R106). -/
theorem Engine.seeded_two (K : ConstTable) (q : Quad 64) (e : Engine) :
    e.seeded K .two q = (e.seeded K .one q).update K :=
  Engine.advance_succ_last K 1 (e.load q)

/-- Settles O7: `Engine.seeded_two` with the words of either command. -/
theorem warmupTwoIsWarmupOneThenNext : Obligations.WarmupTwoIsWarmupOneThenNext := by
  unfold Obligations.WarmupTwoIsWarmupOneThenNext
  intro i s hi
  refine ⟨_, _, _, exec_eq_effect i _, exec_eq_effect .next _, exec_eq_effect i _, ?_⟩
  rcases hi with rfl | rfl
  · simp [effect_seed1, effect_next, Engine.seeded_two]
  · simp [effect_seed2, effect_next, Engine.seeded_two]

/-! ### Loading the words of an engine -/

/-- The first `N` words of an engine, loaded into any engine of its variant, give it back (R112). -/
theorem Engine.load_words {e e' : Engine} {q : Quad 64} (hv : e'.variant = e.variant)
    (hq : ∀ i : Fin 4, i.val < wordCount e.variant → q.get i = e.words.get i) : e'.load q = e := by
  refine Engine.eq_of_words ((e'.variant_load q).trans hv) (Quad.eq_of_get fun i => ?_)
  obtain ⟨hlt, hbeyond⟩ := e.words_bounds i
  rw [Engine.words_load, hv]
  split
  case isTrue hi => rw [hq i hi, Nat.mod_eq_of_lt hlt, BitVec.ofNat_toNat, BitVec.setWidth_eq]
  case isFalse hi => rw [hbeyond (by omega)]

/-- What `NEXT` returns and leaves depends on the engine alone. -/
theorem effect_next_of_engine_eq (h : s.engine = s'.engine) :
    (effect P .next s).res = (effect P .next s').res ∧
      (effect P .next s).engine = (effect P .next s').engine := by
  simp [effect_next, h]

/-- Settles O8: both instances hold one engine, so their next words agree. -/
theorem stateRoundTrip : Obligations.StateRoundTrip := by
  unfold Obligations.StateRoundTrip
  intro s s' hv
  refine ⟨_, exec_eq_effect .rdst s, fun hsin => ?_⟩
  have hload : s'.engine.load s'.sin = s.engine := Engine.load_words hv hsin
  have hu : (effect hardware .ldst s').engine = s.engine := by simp [effect_ldst, hload]
  have ht : (effect hardware .rdst s).engine = s.engine := by simp [effect_rdst]
  exact ⟨_, _, _, exec_eq_effect .ldst s', hu, by simp [effect_ldst], exec_eq_effect .next _,
    exec_eq_effect .next _, effect_next_of_engine_eq (hu.trans ht.symm)⟩

/-! ### `NOP`, `CLR` and `RDST` -/

/-- Settles O1. -/
theorem nopChangesNothing : Obligations.NopChangesNothing := by
  unfold Obligations.NopChangesNothing
  refine ⟨decode_eq_ok_iff_encode.2 rfl, fun s => ?_⟩
  rw [exec_eq_effect, effect_nop]

/-- Settles O2. -/
theorem clrGivesTheUninitialisedEngine : Obligations.ClrGivesTheUninitialisedEngine := by
  unfold Obligations.ClrGivesTheUninitialisedEngine
  refine ⟨decode_eq_ok_iff_encode.2 rfl, fun s => ⟨Engine.zero s.engine.variant, ?_,
    Engine.variant_zero _, (Engine.isZero_iff_words _).1 (Engine.isZero_zero _),
    Engine.isZero_zero _⟩⟩
  rw [exec_eq_effect, effect_clr, setEngine_setInit_clearError_eq]

theorem setSout_clearError_eq (q : Quad 64) :
    (s.setSout q).clearError = { s with sout := q, err := false, ecode := 0 } := (rfl)

/-- Settles O6: the snapshot is `Engine.words`, read off for each shape of an engine. -/
theorem rdstSnapshotsTheState : Obligations.RdstSnapshotsTheState := by
  unfold Obligations.RdstSnapshotsTheState
  have zext (x : BitVec 32) : (x.setWidth 64).toNat = x.toNat :=
    BitVec.toNat_setWidth_of_le (by decide)
  refine ⟨decode_eq_ok_iff_encode.2 rfl, fun s => ⟨s.engine.words, ?_, fun t w h => ?_,
    fun t w h => ?_, fun t w h => ?_, fun t w h => ?_⟩⟩
  · rw [exec_eq_effect, effect_rdst, setSout_clearError_eq]
  · rw [h]
    rfl
  · rw [h]
    exact ⟨zext _, zext _, zext _, zext _⟩
  · rw [h]
    rfl
  · rw [h]
    exact ⟨zext _, zext _, rfl, rfl⟩

end Sys2Proof.Machine
end

section
/-! O9 and O10. When seeding ends in the all-zero state: no transition leaves or reaches it, as the update is
injective, so the chains decide (spec/40_engine_state_ops.md R109; spec/41_engine_next.md R156;
spec/42_seed_expander.md R172; spec/90_conflicts.md C13). -/

namespace Sys2Proof.Machine

variable {P : Params} {K : ConstTable} {s : State}

/-! ### The update is injective -/

theorem amountOk_iff {w k : Nat} : amountOk w k = true ↔ 0 < k ∧ k < w := by simp [amountOk]

theorem xoshiroUpdate_injective_of_amounts {w : Nat} {k : Consts}
    (hk : xoshiroAmountsOk w k = true) :
    Function.Injective fun q : Quad w => xoshiroUpdate k.sh k.rs q := by
  obtain ⟨hsh, hrs⟩ := Bool.and_eq_true_iff.1 hk
  exact xoshiroUpdate_injective (amountOk_iff.1 hsh).1 (amountOk_iff.1 hrs).2

theorem xoroshiroUpdate_injective_of_amounts {w : Nat} {k : Consts}
    (hk : xoroshiroAmountsOk w k = true) :
    Function.Injective fun p : Pair w => xoroshiroUpdate k.a k.b k.c p := by
  obtain ⟨hab, hc⟩ := Bool.and_eq_true_iff.1 hk
  obtain ⟨ha, -⟩ := Bool.and_eq_true_iff.1 hab
  exact xoroshiroUpdate_injective (amountOk_iff.1 ha).2 (amountOk_iff.1 hc).2

/-- What a legal table says of the row of an engine, by the shape of the engine (R134, R136). -/
theorem amounts_of_constTableOk (hK : constTableOk K = true) :
    (∀ t q, xoshiroAmountsOk 64 (K (Engine.xoshiro64 t q).variant) = true) ∧
    (∀ t q, xoshiroAmountsOk 32 (K (Engine.xoshiro32 t q).variant) = true) ∧
    (∀ t p, xoroshiroAmountsOk 64 (K (Engine.xoroshiro64 t p).variant) = true) ∧
    (∀ t p, xoroshiroAmountsOk 32 (K (Engine.xoroshiro32 t p).variant) = true) := by
  simp only [constTableOk, Bool.and_eq_true] at hK
  refine ⟨fun t q => ?_, fun t q => ?_, fun t p => ?_, fun t p => ?_⟩ <;>
    cases t <;> simp only [Engine.variant, hK]

/-- Engines with equal updates have one variant, hence one row of constants and one shape (R156). -/
theorem Engine.update_injective (hK : constTableOk K = true) :
    Function.Injective (Engine.update K) := by
  intro e e' h
  have hv : e.variant = e'.variant := by
    rw [← e.variant_update K, h, e'.variant_update]
  obtain ⟨hx64, hx32, hr64, hr32⟩ := amounts_of_constTableOk hK
  cases e with
  | xoshiro64 t q =>
    cases e' with
    | xoshiro64 t' q' =>
      obtain ⟨rfl, hwords⟩ := Engine.xoshiro64.inj h
      rw [← hv] at hwords
      exact congrArg _ (xoshiroUpdate_injective_of_amounts (hx64 t q) hwords)
    | _ => cases h
  | xoshiro32 t q =>
    cases e' with
    | xoshiro32 t' q' =>
      obtain ⟨rfl, hwords⟩ := Engine.xoshiro32.inj h
      rw [← hv] at hwords
      exact congrArg _ (xoshiroUpdate_injective_of_amounts (hx32 t q) hwords)
    | _ => cases h
  | xoroshiro64 t p =>
    cases e' with
    | xoroshiro64 t' p' =>
      obtain ⟨rfl, hwords⟩ := Engine.xoroshiro64.inj h
      rw [← hv] at hwords
      exact congrArg _ (xoroshiroUpdate_injective_of_amounts (hr64 t p) hwords)
    | _ => cases h
  | xoroshiro32 t p =>
    cases e' with
    | xoroshiro32 t' p' =>
      obtain ⟨rfl, hwords⟩ := Engine.xoroshiro32.inj h
      rw [← hv] at hwords
      exact congrArg _ (xoroshiroUpdate_injective_of_amounts (hr32 t p) hwords)
    | _ => cases h

/-- Before the all-zero state there is only the all-zero state. -/
theorem Engine.isZero_update (hK : constTableOk K = true) (e : Engine) :
    (e.update K).isZero = e.isZero := by
  rw [Bool.eq_iff_iff]
  refine ⟨fun h => ?_, fun h => (Engine.update_of_isZero K h).symm ▸ h⟩
  have hfix : e.update K = e := Engine.update_injective hK (Engine.update_of_isZero K h)
  rwa [hfix] at h

theorem Engine.isZero_advance (hK : constTableOk K = true) (n : Nat) (e : Engine) :
    (Engine.advance K n e).isZero = e.isZero := by
  induction n generalizing e with
  | zero => rfl
  | succ n ih => rw [Engine.advance_succ, ih, Engine.isZero_update hK]

/-! ### The words of a seeding -/

/-- At `W = 64` a seeding ends in the all-zero state exactly when its first `N` words are 0. -/
theorem Engine.isZero_seeded_iff (hK : constTableOk K = true) {e : Engine}
    (hw : wordWidth e.variant = 64) (wu : Warmup) (q : Quad 64) :
    (e.seeded K wu q).isZero = true ↔
      ∀ i : Fin 4, i.val < wordCount e.variant → q.get i = 0 := by
  rw [Engine.seeded, Engine.isZero_advance hK, Engine.isZero_iff_get, Engine.variant_load]
  refine forall₂_congr fun i hi => ?_
  rw [Engine.words_load, if_pos hi, hw, Nat.mod_eq_of_lt (q.get i).isLt, BitVec.ofNat_toNat,
    BitVec.setWidth_eq]

theorem wordCount_eq_two_or_four (v : Variant) : wordCount v = 2 ∨ wordCount v = 4 := by
  cases v <;> decide

/-- The first two words of one chain are never both 0. -/
theorem effect_seed1_zeroFlag (hK : constTableOk P.const = true)
    (hf : ExpandNeverZeroTwice P.expand) (hw : wordWidth s.engine.variant = 64) :
    (effect P .seed1 s).zeroFlag = false := by
  have hN : 2 ≤ wordCount s.engine.variant := by
    have := wordCount_eq_two_or_four s.engine.variant
    omega
  have hzero : (effect P .seed1 s).zeroFlag = (s.engine.seeded P.const s.warmup
      (seedChain P.expand s.arg0)).isZero := by simp [effect_seed1]
  rw [hzero, ← Bool.not_eq_true, Engine.isZero_seeded_iff hK hw]
  intro h
  exact hf s.arg0 ⟨h 0 (lt_of_lt_of_le (by decide) hN), h 1 (lt_of_lt_of_le (by decide) hN)⟩

/-- With `N = 2` each chain gives one word; with `N = 4` each gives two, which are never both 0. -/
theorem effect_seed2_zeroFlag_iff {z : Reg} (hK : constTableOk P.const = true)
    (hz : ExpandZeroAt P.expand z) (hf : ExpandNeverZeroTwice P.expand)
    (hw : wordWidth s.engine.variant = 64) :
    (effect P .seed2 s).zeroFlag = true ↔
      wordCount s.engine.variant = 2 ∧ s.arg0 = z ∧ s.arg1 = z := by
  have hzero : (effect P .seed2 s).zeroFlag = (s.engine.seeded P.const s.warmup
      (seedChains P.expand s.arg0 s.arg1)).isZero := by simp [effect_seed2]
  rw [hzero, Engine.isZero_seeded_iff hK hw, ← hz s.arg0, ← hz s.arg1]
  obtain hN | hN := wordCount_eq_two_or_four s.engine.variant
  · rw [hN]
    refine ⟨fun h => ⟨rfl, h 0 (by decide), h 1 (by decide)⟩, fun ⟨_, h0, h1⟩ i hi => ?_⟩
    fin_cases i
    · exact h0
    · exact h1
    · exact absurd hi (by decide)
    · exact absurd hi (by decide)
  · rw [hN]
    exact ⟨fun h => (hf s.arg0 ⟨h 0 (by decide), h 2 (by decide)⟩).elim,
      fun ⟨h, _⟩ => absurd h (by decide)⟩

theorem constTable_ok : constTableOk constTable = true := by decide

/-- Settles O9: `effect_seed1_zeroFlag`, and this hardware has what it asks for. -/
theorem seed1IsNeverDegenerateAt64Bits : Obligations.Seed1IsNeverDegenerateAt64Bits := by
  unfold Obligations.Seed1IsNeverDegenerateAt64Bits
  exact ⟨fun P hK hf s hw => ⟨_, execWith_eq_effect P .seed1 s, effect_seed1_zeroFlag hK hf hw⟩,
    fun s hw => ⟨_, exec_eq_effect .seed1 s,
      effect_seed1_zeroFlag (P := hardware) constTable_ok expand_neverZeroTwice hw⟩⟩

/-- Settles O10: `effect_seed2_zeroFlag_iff`, and this hardware has what it asks for. -/
theorem seed2IsDegenerateAt64BitsExactlyAtOnePair :
    Obligations.Seed2IsDegenerateAt64BitsExactlyAtOnePair := by
  unfold Obligations.Seed2IsDegenerateAt64BitsExactlyAtOnePair
  have herr (P : Params) (s : State) : (effect P .seed2 s).err = false := by simp [effect_seed2]
  exact ⟨fun P z hK hz hf s hw => ⟨_, execWith_eq_effect P .seed2 s, herr P s,
      effect_seed2_zeroFlag_iff hK hz hf hw⟩,
    fun s hw => ⟨_, exec_eq_effect .seed2 s, herr hardware s,
      effect_seed2_zeroFlag_iff (P := hardware) constTable_ok expand_zeroAt expand_neverZeroTwice
        hw⟩⟩

end Sys2Proof.Machine
end

section
/-! O11 to O13 and O15 to O18. The transition: the updates and the scramblers on the entry values, the
update as a bijection of the states of a variant, runs of `NEXT`, and the bounds of an output word
(spec/41_engine_next.md R139 to R157). -/

namespace Sys2Proof.Machine

variable {P : Params} {K : ConstTable} {s : State}

/-! ### The updates on the entry values -/

/-- R141 without its sequence of assignments, for a row with legal amounts. -/
theorem xoshiroUpdate_eq {w : Nat} {k : Consts} (hk : xoshiroAmountsOk w k = true)
    (s0 s1 s2 s3 : BitVec w) :
    xoshiroUpdate k.sh k.rs ⟨s0, s1, s2, s3⟩ =
      ⟨s0 ^^^ s3 ^^^ s1, s1 ^^^ s2 ^^^ s0, s2 ^^^ s0 ^^^ (s1 <<< k.sh),
        (s3 ^^^ s1).rotateLeft k.rs⟩ := by
  obtain ⟨-, hrs⟩ := Bool.and_eq_true_iff.1 hk
  simp only [xoshiroUpdate, rotl_eq_rotateLeft _ (amountOk_iff.1 hrs).2, BitVec.xor_assoc]

/-- R142 for a row with legal amounts. -/
theorem xoroshiroUpdate_eq {w : Nat} {k : Consts} (hk : xoroshiroAmountsOk w k = true)
    (s0 s1 : BitVec w) :
    xoroshiroUpdate k.a k.b k.c ⟨s0, s1⟩ =
      ⟨s0.rotateLeft k.a ^^^ (s1 ^^^ s0) ^^^ ((s1 ^^^ s0) <<< k.b),
        (s1 ^^^ s0).rotateLeft k.c⟩ := by
  obtain ⟨hab, hc⟩ := Bool.and_eq_true_iff.1 hk
  obtain ⟨ha, -⟩ := Bool.and_eq_true_iff.1 hab
  simp only [xoroshiroUpdate, rotl_eq_rotateLeft _ (amountOk_iff.1 ha).2,
    rotl_eq_rotateLeft _ (amountOk_iff.1 hc).2]

/-- Settles O12: the update of each shape of an engine, whose row of the table is legal. -/
theorem updatesFollowTheirRecurrence : Obligations.UpdatesFollowTheirRecurrence := by
  unfold Obligations.UpdatesFollowTheirRecurrence
  intro K hK
  obtain ⟨hx64, hx32, hr64, hr32⟩ := amounts_of_constTableOk hK
  refine ⟨?_, ?_, ?_, ?_⟩
  · rintro t s0 s1 s2 s3 _ rfl
    exact congrArg (Engine.xoshiro64 t) (xoshiroUpdate_eq (hx64 t _) s0 s1 s2 s3)
  · rintro t s0 s1 s2 s3 _ rfl
    exact congrArg (Engine.xoshiro32 t) (xoshiroUpdate_eq (hx32 t _) s0 s1 s2 s3)
  · rintro t s0 s1 _ rfl
    exact congrArg (Engine.xoroshiro64 t) (xoroshiroUpdate_eq (hr64 t _) s0 s1)
  · rintro t s0 s1 _ rfl
    exact congrArg (Engine.xoroshiro32 t) (xoroshiroUpdate_eq (hr32 t _) s0 s1)

/-! ### The scramblers on the entry values -/

theorem xoshiroPlusPlus_eq {w rp : Nat} (hrp : rp < w) (s0 s1 s2 s3 : BitVec w) :
    xoshiroPlusPlus rp ⟨s0, s1, s2, s3⟩ = (s0 + s3).rotateLeft rp + s0 := by
  rw [xoshiroPlusPlus, rotl_eq_rotateLeft _ hrp]

theorem xoshiroStarStar_eq {w m1 ro m2 : Nat} (hro : ro < w) (s0 s1 s2 s3 : BitVec w) :
    xoshiroStarStar m1 ro m2 ⟨s0, s1, s2, s3⟩ =
      (s1 * BitVec.ofNat w m1).rotateLeft ro * BitVec.ofNat w m2 := by
  rw [xoshiroStarStar, rotl_eq_rotateLeft _ hro]

theorem xoroshiroPlusPlus_eq {w rp : Nat} (hrp : rp < w) (s0 s1 : BitVec w) :
    xoroshiroPlusPlus rp ⟨s0, s1⟩ = (s0 + s1).rotateLeft rp + s0 := by
  rw [xoroshiroPlusPlus, rotl_eq_rotateLeft _ hrp]

theorem xoroshiroStarStar_eq {w m1 ro m2 : Nat} (hro : ro < w) (s0 s1 : BitVec w) :
    xoroshiroStarStar m1 ro m2 ⟨s0, s1⟩ =
      (s0 * BitVec.ofNat w m1).rotateLeft ro * BitVec.ofNat w m2 := by
  rw [xoroshiroStarStar, rotl_eq_rotateLeft _ hro]

/-- The zero-extension of a 32-bit output word keeps its value (R140). -/
theorem toNat_setWidth_64 (x : BitVec 32) : (x.setWidth 64).toNat = x.toNat :=
  BitVec.toNat_setWidth_of_le (by decide)

theorem toNat_eq_of_setWidth {r : Reg} {x y : BitVec 32} (hr : r = x.setWidth 64) (hxy : x = y) :
    r.toNat = y.toNat := by
  rw [hr, hxy, toNat_setWidth_64]

/-- Settles O13: each scrambler with its row of R139, and O12 at `constTable`; the rows of the 64-bit
xoroshiro variants differ, those of any other shape agree in the amounts of the update. -/
theorem elevenTransitionsWithTheirConstants :
    Obligations.ElevenTransitionsWithTheirConstants := by
  unfold Obligations.ElevenTransitionsWithTheirConstants
  obtain ⟨hx64, hx32, hr64, hr32⟩ := updatesFollowTheirRecurrence constTable constTable_ok
  refine ⟨fun s0 s1 s2 s3 => ⟨?_, ?_, rfl⟩, fun s0 s1 s2 s3 => ⟨?_, ?_, ?_⟩,
    fun s0 s1 => ⟨?_, ?_, rfl⟩, fun s0 s1 => ⟨?_, ?_⟩, fun t s0 s1 s2 s3 => ?_,
    fun t s0 s1 s2 s3 => ?_,
    fun s0 s1 => ⟨?_, ?_, ?_⟩, fun t s0 s1 => ?_⟩
  · exact xoshiroPlusPlus_eq (rp := 23) (by decide) s0 s1 s2 s3
  · exact xoshiroStarStar_eq (ro := 7) (by decide) s0 s1 s2 s3
  · exact toNat_eq_of_setWidth rfl (xoshiroPlusPlus_eq (rp := 7) (by decide) s0 s1 s2 s3)
  · exact toNat_eq_of_setWidth rfl (xoshiroStarStar_eq (ro := 7) (by decide) s0 s1 s2 s3)
  · exact toNat_setWidth_64 (s0 + s3)
  · exact xoroshiroPlusPlus_eq (rp := 17) (by decide) s0 s1
  · exact xoroshiroStarStar_eq (ro := 7) (by decide) s0 s1
  · exact toNat_eq_of_setWidth rfl (xoroshiroStarStar_eq (ro := 7) (by decide) s0 s1)
  · exact toNat_setWidth_64 (s0 * 0x9E3779BB#32)
  · rw [hx64 t s0 s1 s2 s3 _ rfl]
    cases t <;> rfl
  · rw [hx32 t s0 s1 s2 s3 _ rfl]
    cases t <;> rfl
  · exact (hr64 .plusPlus s0 s1 _ rfl).trans rfl
  · exact (hr64 .starStar s0 s1 _ rfl).trans rfl
  · exact (hr64 .plus s0 s1 _ rfl).trans rfl
  · rw [hr32 t s0 s1 _ rfl]
    cases t <;> rfl

/-! ### The update is a bijection of the states of a variant -/

/-- An injective map of the finitely many states of one variant to themselves is onto (R156). -/
theorem Engine.exists_update_eq (hK : constTableOk K = true) (e : Engine) :
    ∃ e' : Engine, e'.variant = e.variant ∧ e'.update K = e := by
  have := Engine.finite_variant e.variant
  have hmaps : ∀ x : Engine, x.variant = e.variant → (x.update K).variant = e.variant :=
    fun x hx => (x.variant_update K).trans hx
  have hsurj := Finite.surjective_of_injective
    (Subtype.map_injective hmaps (Engine.update_injective hK))
  obtain ⟨⟨e', hv⟩, he'⟩ := hsurj ⟨e, rfl⟩
  exact ⟨e', hv, congrArg Subtype.val he'⟩

/-- Settles O15: the update is injective, onto within a variant, and keeps whether an engine is zero. -/
theorem updateIsABijectionFixingZero : Obligations.UpdateIsABijectionFixingZero := by
  unfold Obligations.UpdateIsABijectionFixingZero
  exact fun K hK => ⟨fun _ _ h => Engine.update_injective hK h, Engine.exists_update_eq hK,
    fun e he n => (Engine.isZero_advance hK n e).trans he⟩

/-! ### Runs of one command -/

theorem execAll_replicate (i : Instr) (n : Nat) (s : State) :
    execAll (List.replicate n i) s = .next ((effect hardware i)^[n] s) := by
  induction n generalizing s with
  | zero => rfl
  | succ n ih =>
    rw [List.replicate_succ, execAll, exec_eq_effect, Function.iterate_succ_apply]
    exact ih _

theorem engine_iterate_effect_next (n : Nat) (s : State) :
    ((effect P .next)^[n] s).engine = Engine.advance P.const n s.engine := by
  induction n generalizing s with
  | zero => rfl
  | succ n ih =>
    rw [Function.iterate_succ_apply, ih, Engine.advance_succ]
    simp [effect_next]

/-- The last of `n + 1` `NEXT` commands returns output word `n` of the engine. -/
theorem res_iterate_effect_next (n : Nat) (s : State) :
    ((effect P .next)^[n + 1] s).res = s.engine.outWord P.const n := by
  rw [Function.iterate_succ_apply', Engine.outWord, ← engine_iterate_effect_next]
  simp [effect_next]

/-- Settles O16: the engine and the result of the run are functions of the engine on entry. -/
theorem nextDependsOnTheEngineOnly : Obligations.NextDependsOnTheEngineOnly := by
  unfold Obligations.NextDependsOnTheEngineOnly
  intro n s s' h
  refine ⟨_, _, execAll_replicate .next n s, execAll_replicate .next n s', ?_, fun hn => ?_⟩
  · rw [engine_iterate_effect_next, engine_iterate_effect_next, h]
  · obtain ⟨m, rfl⟩ := Nat.exists_eq_add_one.2 hn
    rw [res_iterate_effect_next, res_iterate_effect_next, h]

/-! ### `GMAX`, `NEXT` and `GMIN` -/

theorem Engine.maxWord_eq (e : Engine) :
    e.maxWord = BitVec.ofNat 64 (2 ^ wordWidth e.variant - 1) := by
  cases e with
  | xoshiro64 t q => cases t <;> rfl
  | xoshiro32 t q => cases t <;> rfl
  | xoroshiro64 t p => cases t <;> rfl
  | xoroshiro32 t p => cases t <;> rfl

/-- An output word is a `W`-bit word, zero-extended (R140, R155). -/
theorem Engine.scramble_le_maxWord (K : ConstTable) (e : Engine) :
    (e.scramble K).toNat ≤ e.maxWord.toNat := by
  have le64 (x : Reg) : x.toNat ≤ (BitVec.allOnes 64).toNat := Nat.le_pred_of_lt x.isLt
  have le32 (x : BitVec 32) : (x.setWidth 64).toNat ≤
      ((BitVec.allOnes 32).setWidth 64).toNat := by
    rw [toNat_setWidth_64, toNat_setWidth_64]
    exact Nat.le_pred_of_lt x.isLt
  cases e with
  | xoshiro64 t q => exact le64 _
  | xoshiro32 t q => cases t <;> exact le32 _
  | xoroshiro64 t p => exact le64 _
  | xoroshiro32 t p => cases t <;> exact le32 _

/-- Settles O18: the result of `NEXT` is the output word, that of `GMAX` the largest word. -/
theorem gmaxGivesTheLargestWord : Obligations.GmaxGivesTheLargestWord := by
  unfold Obligations.GmaxGivesTheLargestWord
  refine ⟨decode_eq_ok_iff_encode.2 rfl, fun s => ?_, fun s =>
    ⟨_, _, exec_eq_effect .next s, exec_eq_effect .gmax s, ?_⟩⟩
  · rw [exec_eq_effect, effect_gmax, setRes_clearError_eq, Engine.maxWord_eq]
  · rw [effect_next, effect_gmax, State.clearError_res, State.clearError_res, State.setRes_res,
      State.setRes_res]
    exact s.engine.scramble_le_maxWord _

theorem execWith_next (P : Params) (s : State) : execWith P .next s = .next { s with
    engine := (nextFn P.const s.engine).2, res := (nextFn P.const s.engine).1,
    err := false, ecode := 0 } := by
  rw [execWith_eq_effect, effect_next, setRes_clearError_eq]
  rfl

/-- Settles O11: `execWith_next`, of which `exec` is the case of this hardware. -/
theorem nextIsOneTransition : Obligations.NextIsOneTransition := by
  unfold Obligations.NextIsOneTransition
  exact ⟨decode_eq_ok_iff_encode.2 rfl, execWith_next,
    fun s => exec_eq_execWith ▸ execWith_next hardware s⟩

/-- Settles O17: `effect_gmin` as one record. -/
theorem gminGivesTheSmallestWord : Obligations.GminGivesTheSmallestWord := by
  unfold Obligations.GminGivesTheSmallestWord
  refine ⟨decode_eq_ok_iff_encode.2 rfl, fun s => ?_⟩
  rw [exec_eq_effect, effect_gmin, setRes_clearError_eq]

end Sys2Proof.Machine
end

section
/-! O19 and O20. `XPND` as a whole next state, `EXPAND` as arithmetic on natural numbers, and each kind of
step of `EXPAND` as a bijection of the 64-bit words (spec/42_seed_expander.md R171, R172, R174). -/

namespace Sys2Proof.Machine

theorem execWith_xpnd (P : Params) (s : State) : execWith P .xpnd s = .next { s with
    res := P.expand s.arg0, err := false, ecode := 0 } := by
  rw [execWith_eq_effect, effect_xpnd, setRes_clearError_eq]

/-! ### The steps of `EXPAND` on natural numbers -/

theorem toNat_xor_shiftRight {w : Nat} (z : BitVec w) (k : Nat) :
    (z ^^^ (z >>> k)).toNat = z.toNat ^^^ (z.toNat / 2 ^ k) := by
  rw [BitVec.toNat_xor, BitVec.toNat_ushiftRight, Nat.shiftRight_eq_div_pow]

theorem toNat_xor_shiftRight_mul {w : Nat} (z c : BitVec w) (k : Nat) :
    ((z ^^^ (z >>> k)) * c).toNat = (z.toNat ^^^ (z.toNat / 2 ^ k)) * c.toNat % 2 ^ w := by
  rw [BitVec.toNat_mul, toNat_xor_shiftRight]

/-- R171 on natural numbers: they are the values of the words between the steps. -/
theorem toNat_expand (x : Reg) : ∃ z0 z1 z2 : Nat,
    z0 = (x.toNat + 0x9E3779B97F4A7C15) % 2 ^ 64 ∧
    z1 = ((z0 ^^^ (z0 / 2 ^ 30)) * 0xBF58476D1CE4E5B9) % 2 ^ 64 ∧
    z2 = ((z1 ^^^ (z1 / 2 ^ 27)) * 0x94D049BB133111EB) % 2 ^ 64 ∧
    (expand x).toNat = z2 ^^^ (z2 / 2 ^ 31) := by
  rw [expand, toNat_xor_shiftRight]
  exact ⟨_, _, _, BitVec.toNat_add x 0x9E3779B97F4A7C15#64,
    toNat_xor_shiftRight_mul _ 0xBF58476D1CE4E5B9#64 30,
    toNat_xor_shiftRight_mul _ 0x94D049BB133111EB#64 27, rfl⟩

/-- Settles O19: the command is `execWith_xpnd`, the function `toNat_expand`. -/
theorem xpndAppliesTheExpander : Obligations.XpndAppliesTheExpander := by
  unfold Obligations.XpndAppliesTheExpander
  exact ⟨decode_eq_ok_iff_encode.2 rfl, execWith_xpnd,
    fun s => exec_eq_execWith ▸ execWith_xpnd hardware s, toNat_expand⟩

/-! ### The kinds of steps of `EXPAND` are bijections -/

/-- An injective map of the 64-bit words to themselves is a bijection (R172 (a)). -/
theorem expandBijective_of_injective {f : Reg → Reg} (h : Function.Injective f) : ExpandBijective f :=
  ⟨fun _ _ hxy => h hxy, surjective_of_injective h⟩

/-- An odd constant is coprime to `2 ^ w`, so it cancels modulo `2 ^ w`. -/
theorem mul_injective_of_odd {w : Nat} {m : BitVec w} (hm : m.toNat % 2 = 1) :
    Function.Injective fun z : BitVec w => z * m := by
  intro x y h
  have hcoprime : (2 ^ w).gcd m.toNat = 1 :=
    Nat.Coprime.pow_left w (Nat.coprime_two_left.2 (Nat.odd_iff.2 hm))
  have hmod : x.toNat * m.toNat ≡ y.toNat * m.toNat [MOD 2 ^ w] := by
    rw [Nat.ModEq, ← BitVec.toNat_mul, ← BitVec.toNat_mul]
    exact congrArg BitVec.toNat h
  exact BitVec.eq_of_toNat_eq
    ((hmod.cancel_right_of_coprime hcoprime).eq_of_lt_of_lt x.isLt y.isLt)

/-- Settles O20: `EXPAND` and each kind of step is injective, hence onto; 0 has one preimage, which is
not 0. -/
theorem expandIsABijection : Obligations.ExpandIsABijection := by
  unfold Obligations.ExpandIsABijection
  obtain ⟨hinj, hsurj⟩ := expand_bijective
  exact ⟨hinj, hsurj,
    fun c => expandBijective_of_injective (add_left_injective c),
    fun _ hk => expandBijective_of_injective (xor_shiftRight_injective hk),
    fun _ hm => expandBijective_of_injective (mul_injective_of_odd hm),
    expand_eq_zero_iff, expand_zero, expand_neverZeroTwice,
    hardware_expand ▸ ⟨expand_bijective, expand_zeroAt, expand_neverZeroTwice⟩,
    fun _ h => expandNeverZeroTwice_of_zero_ne h⟩

end Sys2Proof.Machine
end

section
/-! O21, O22, O23, O27 and O54. The commands on the source string and on the triple, each as a whole next
state, and which commands write the triple (spec/43_dice_sampler.md R183, R184, R190, R191, R195, R198). -/

namespace Sys2Proof.Machine

variable {P : Params} {s t : State} {i : Instr}

/-! ### `XCLR` and `PUTC` -/

theorem setExlen_clearError_eq (n : BitVec 8) :
    (s.setExlen n).clearError = { s with exlen := n, err := false, ecode := 0 } := (rfl)

/-- Settles O21: `effect_xclr` as one record. -/
theorem xclrStartsANewString : Obligations.XclrStartsANewString := by
  unfold Obligations.XclrStartsANewString
  refine ⟨decode_eq_ok_iff_encode.2 rfl, fun s => ?_⟩
  rw [exec_eq_effect, effect_xclr, setExlen_clearError_eq]

/-- The encoding of `PUTC` by shift: its byte above the opcode (R70). -/
theorem encode_putc (b : Byte) : encode (.putc b) = 0x11#64 ||| (b.setWidth 64 <<< 8) := by
  revert b
  decide

/-- `E_FULL` has code 6 (R33). -/
theorem setError_full_eq : s.setError .full = { s with err := true, ecode := 6 } := (rfl)

theorem execWith_putc_of_full (b : Byte) (h : s.exlen.toNat = P.exprMax) :
    execWith P (.putc b) s = .next { s with err := true, ecode := 6 } := by
  rw [execWith_eq_effect, effect_putc_of_full b h, setError_full_eq]

/-- `PUTC` writes at `EXLEN`; the byte is there afterwards because the buffer was canonical. -/
theorem execWith_putc_of_not_full (b : Byte) (hs : s.InvWith P) (h : s.exlen.toNat ≠ P.exprMax) :
    ∃ m, execWith P (.putc b) s = .next { s with
        expr := m, exlen := s.exlen + 1, err := false, ecode := 0 } ∧
      Memory.read m s.exlen.toNat = b ∧
      ∀ p, p ≠ s.exlen.toNat → Memory.read m p = s.byteAt p := by
  obtain ⟨⟨hwf, -, -⟩, -⟩ := hs
  refine ⟨Memory.write s.expr s.exlen.toNat b, ?_, Memory.read_write_same hwf _ b,
    fun p hp => Memory.read_write_other _ b hp⟩
  rw [execWith_eq_effect, effect_putc_of_not_full b h]
  rfl

/-- Settles O22: the two cases at any capacity, and `exec` is the machine at the capacity 64. -/
theorem putcAppendsOrReportsFull : Obligations.PutcAppendsOrReportsFull := by
  unfold Obligations.PutcAppendsOrReportsFull
  exact ⟨fun b => decode_eq_ok_iff_encode.2 (encode_putc b),
    fun _ b _ => execWith_putc_of_full b,
    fun _ b _ => execWith_putc_of_not_full b,
    fun b _ => exec_eq_execWith ▸ execWith_putc_of_full (P := hardware) b,
    fun b _ => exec_eq_execWith ▸ execWith_putc_of_not_full (P := hardware) b⟩

/-! ### `PARSE` and `LDDX` -/

/-- The source string is the one string of length `EXLEN` whose bytes are those of the buffer (R40). -/
theorem eq_source {e : List Byte} (hlen : e.length = s.exlen.toNat)
    (hbytes : ∀ p, p < s.exlen.toNat → e[p]? = some (s.byteAt p)) : e = s.source := by
  have hsource : s.source.length = s.exlen.toNat := by simp [State.source]
  refine List.ext_getElem? fun p => ?_
  by_cases hp : p < s.exlen.toNat
  · rw [hbytes p hp]
    simp [State.source, hp]
  · rw [List.getElem?_eq_none (by omega), List.getElem?_eq_none (by omega)]

theorem exec_parse_of_ok {d : DiceExpr} (h : parseFn s.source = .ok d) :
    exec .parse s = .next { s with
      count := BitVec.ofInt 32 d.count, sides := BitVec.ofInt 32 d.sides,
      modifier := BitVec.ofInt 32 d.modifier, dvalid := true, err := false, ecode := 0 } := by
  rw [exec_eq_effect, effect_parse, h, BitVec.ofInt_natCast, BitVec.ofInt_natCast]
  rfl

theorem exec_parse_of_error {c : ErrCode} (h : parseFn s.source = .error c) :
    exec .parse s = .next { s with
      count := 0, sides := 0, modifier := 0, dvalid := false, err := true, ecode := c.code } := by
  rw [exec_eq_effect, effect_parse, h]
  rfl

/-- Settles O23: the string of the statement is the source string; the codes are those of R33. -/
theorem parseWritesOrClearsTheTriple : Obligations.ParseWritesOrClearsTheTriple := by
  unfold Obligations.ParseWritesOrClearsTheTriple
  refine ⟨decode_eq_ok_iff_encode.2 rfl, fun s e hlen hbytes => ?_⟩
  obtain rfl := eq_source hlen hbytes
  refine ⟨fun d hd => exec_parse_of_ok hd, fun c n hcode hc => ?_, ⟨_, exec_eq_effect .parse s⟩⟩
  have hn : c.code = n := by
    rcases hcode with ⟨rfl, rfl⟩ | ⟨rfl, rfl⟩ | ⟨rfl, rfl⟩ | ⟨rfl, rfl⟩ <;> rfl
  rw [exec_parse_of_error hc, hn]

/-- The low half of a register, and the high half, as numbers (R198). -/
theorem extractLsb'_low (v : Reg) : v.extractLsb' 0 32 = BitVec.ofNat 32 (v.toNat % 2 ^ 32) :=
  BitVec.eq_of_toNat_eq (by simp)

theorem extractLsb'_high (v : Reg) : v.extractLsb' 32 32 = BitVec.ofNat 32 (v.toNat / 2 ^ 32) :=
  BitVec.eq_of_toNat_eq (by simp [Nat.shiftRight_eq_div_pow])

/-- Settles O27: the operands are the halves of `ARG0` and the low half of `ARG1`. -/
theorem lddxLoadsTheTriple : Obligations.LddxLoadsTheTriple := by
  unfold Obligations.LddxLoadsTheTriple
  refine ⟨decode_eq_ok_iff_encode.2 rfl, fun s => ?_⟩
  rw [exec_eq_effect, effect_lddx, State.lddxCount, State.lddxSides, State.lddxModifier,
    extractLsb'_low, extractLsb'_high, extractLsb'_low]
  rfl

/-! ### Who writes the triple -/

theorem Answer.triple_eq (h : Answer P s i t) (hparse : i ≠ .parse) (hlddx : i ≠ .lddx) :
    t.count = s.count ∧ t.sides = s.sides ∧ t.modifier = s.modifier ∧ t.dvalid = s.dvalid := by
  cases h with
  | tripleCleared c => exact absurd rfl hparse
  | tripleLoaded c d m hi => exact absurd hi (not_or.2 ⟨hparse, hlddx⟩)
  | _ => simp

/-- Settles O54. -/
theorem onlyParseAndLddxChangeTheTriple : Obligations.OnlyParseAndLddxChangeTheTriple := by
  unfold Obligations.OnlyParseAndLddxChangeTheTriple
  exact fun _ _ _ h => (answer_of_exec h).triple_eq

end Sys2Proof.Machine
end

section
/-! O28 to O33. `SAMPLE`, `DMIN` and `DMAX`: each result is the 64-bit word of an integer that is far inside
the signed 64-bit range, so the bounds on a roll are bounds on integers (spec/43_dice_sampler.md R201, R202,
R204 to R209). -/

namespace Sys2Proof.Machine

variable {P : Params} {s : State} {K : ConstTable} {dr : Nat → Nat → Nat} {e : Engine}

/-! ### The roll -/

/-- The sum of the draws of the first `n` output words of an engine (R205). -/
def rollSum (K : ConstTable) (dr : Nat → Nat → Nat) (sides n : Nat) (e : Engine) : Nat :=
  ((List.range n).map fun k => dr (e.outWord K k).toNat sides).sum

theorem rollDice_fst_eq_rollSum (sides n : Nat) (acc : Reg) :
    (rollDice K dr sides n e acc).1 = acc + BitVec.ofNat 64 (rollSum K dr sides n e) :=
  rollDice_fst K dr sides n e acc

/-- Every die shows at least 1 and at most the number of sides (R201, R207). -/
theorem rollSum_bounds (hdr : DrawOk (wordWidth e.variant) dr) {sides : Nat} (hpos : 1 ≤ sides)
    (hmax : sides ≤ 2147483647) (n : Nat) :
    n ≤ rollSum K dr sides n e ∧ rollSum K dr sides n e ≤ n * sides := by
  have hdie (k : Nat) := hdr (e.outWord K k).toNat sides (e.outWord_lt K k) hpos hmax
  simpa [rollSum] using sum_range_bounds (fun k => dr (e.outWord K k).toNat sides) n 1 sides hdie

/-- With one side every die shows 1 (R206 (d)). -/
theorem rollSum_one_side (hdr : DrawOk (wordWidth e.variant) dr) (n : Nat) :
    rollSum K dr 1 n e = n := by
  obtain ⟨hlo, hhi⟩ := rollSum_bounds (K := K) hdr (Nat.le_refl 1) (by decide) n
  omega

/-- The default draw of the word 0 is 1, and an all-zero engine gives no other word (R202, R206 (c)). -/
theorem rollSum_draw_of_isZero (h : e.isZero = true) (sides n : Nat) :
    rollSum K draw sides n e = n := by
  simp [rollSum, Engine.outWord_of_isZero K h, draw]

/-- Settles O29: by `rollDice_engine`, and by `rollSum_one_side` for the accumulator. -/
theorem rollAdvancesByTheCountForEveryDraw : Obligations.RollAdvancesByTheCountForEveryDraw := by
  unfold Obligations.RollAdvancesByTheCountForEveryDraw
  intro K dr sides n e acc
  refine ⟨rollDice_engine K dr sides n e acc, ?_⟩
  rintro hdr rfl
  rw [rollDice_fst_eq_rollSum, rollSum_one_side hdr]

/-! ### Integers in registers -/

/-- An integer plus `MOD`, in registers and over the integers (R204). -/
theorem ofInt_add_modifier (z : Int) (m : BitVec 32) :
    BitVec.ofInt 64 z + m.signExtend 64 = BitVec.ofInt 64 (z + m.toInt) := by
  rw [BitVec.signExtend, BitVec.ofInt_add]

/-- Up to `2^62` there is room for `MOD` (R204). -/
theorem toInt_ofInt_add_modifier {z : Int} (hz : z.natAbs ≤ 2 ^ 62) (m : BitVec 32) :
    (BitVec.ofInt 64 (z + m.toInt)).toInt = z + m.toInt := by
  obtain ⟨-, hlo, hhi⟩ := toInt_signExtend m
  exact BitVec.toInt_ofInt_eq_self (by decide) (by omega) (by omega)

theorem natAbs_toInt_le (x : BitVec 32) : x.toInt.natAbs ≤ 2 ^ 31 := by
  obtain ⟨-, hlo, hhi⟩ := toInt_signExtend x
  omega

/-- A product of two 32-bit integers, whatever the signs (R204, R209). -/
theorem natAbs_toInt_mul_le (x y : BitVec 32) : (x.toInt * y.toInt).natAbs ≤ 2 ^ 62 := by
  rw [Int.natAbs_mul]
  exact (Nat.mul_le_mul (natAbs_toInt_le x) (natAbs_toInt_le y)).trans (by decide)

/-- The roll of a valid triple, plus `MOD`, as the word of an integer (R205). -/
theorem roll_add_modifier (sides n : Nat) (m : BitVec 32) :
    (rollDice K dr sides n e 0).1 + m.signExtend 64 =
      BitVec.ofInt 64 (rollSum K dr sides n e + m.toInt) := by
  rw [rollDice_fst_eq_rollSum, zero_add, ← BitVec.ofInt_natCast, ofInt_add_modifier]

/-- The bounds of a roll over the integers, for every `DRAW` that meets its obligation (R207). -/
theorem rollSum_bounds_toInt (hdr : DrawOk (wordWidth e.variant) dr) {count sides : BitVec 32}
    (hcount : 1 ≤ count.toInt) (hsides : 1 ≤ sides.toInt) :
    count.toInt ≤ rollSum K dr sides.toNat count.toNat e ∧
      rollSum K dr sides.toNat count.toNat e ≤ count.toInt * sides.toInt := by
  obtain ⟨hc, -⟩ := toNat_of_pos hcount
  obtain ⟨hs, hlt⟩ := toNat_of_pos hsides
  obtain ⟨hlo, hhi⟩ := rollSum_bounds (K := K) hdr (sides := sides.toNat) (by omega) (by omega)
    count.toNat
  rw [hc, hs]
  exact ⟨by exact_mod_cast hlo, by exact_mod_cast hhi⟩

/-- A roll of a valid triple leaves room for `MOD`. -/
theorem toInt_rollSum_add_modifier (hdr : DrawOk (wordWidth e.variant) dr)
    {count sides : BitVec 32} (hcount : 1 ≤ count.toInt) (hsides : 1 ≤ sides.toInt)
    (m : BitVec 32) :
    (BitVec.ofInt 64 (rollSum K dr sides.toNat count.toNat e + m.toInt)).toInt =
      rollSum K dr sides.toNat count.toNat e + m.toInt := by
  obtain ⟨-, hhi⟩ := rollSum_bounds_toInt (K := K) hdr hcount hsides
  have hmul := natAbs_toInt_mul_le count sides
  exact toInt_ofInt_add_modifier (by omega) m

/-- Settles O30: the roll plus `MOD` is the word of an integer that does not wrap. -/
theorem rollStaysWithinTheDiceBounds : Obligations.RollStaysWithinTheDiceBounds := by
  unfold Obligations.RollStaysWithinTheDiceBounds
  intro K dr e hdr count sides modifier hcount hsides
  obtain ⟨hlo, hhi⟩ := rollSum_bounds_toInt (K := K) hdr hcount hsides
  rw [roll_add_modifier, toInt_rollSum_add_modifier hdr hcount hsides]
  exact ⟨by omega, by omega⟩

/-! ### The commands as whole next states -/

theorem setEngine_setRes_clearError_eq (e : Engine) (v : Reg) :
    ((s.setEngine e).setRes v).clearError =
      { s with engine := e, res := v, err := false, ecode := 0 } := (rfl)

/-- `E_DICE` has code 5 (R33). -/
theorem setError_dice_eq : s.setError .dice = { s with err := true, ecode := 5 } := (rfl)

theorem execWith_sample_of_ready (P : Params) (hvalid : s.dvalid = true)
    (hcount : 1 ≤ s.count.toInt) (hsides : 1 ≤ s.sides.toInt) :
    execWith P .sample s = .next { s with
      engine := Engine.advance P.const s.count.toNat s.engine,
      res := BitVec.ofInt 64
        (rollSum P.const P.draw s.sides.toNat s.count.toNat s.engine + s.modifier.toInt),
      err := false, ecode := 0 } := by
  rw [execWith_eq_effect, effect_sample, if_pos ((diceReady_iff s).2 ⟨hvalid, hcount, hsides⟩),
    sampleRoll_engine, sampleRoll, roll_add_modifier, setEngine_setRes_clearError_eq]

theorem exec_sample_of_ready (hvalid : s.dvalid = true) (hcount : 1 ≤ s.count.toInt)
    (hsides : 1 ≤ s.sides.toInt) :
    exec .sample s = .next { s with
      engine := Engine.advance constTable s.count.toNat s.engine,
      res := BitVec.ofInt 64
        (rollSum constTable draw s.sides.toNat s.count.toNat s.engine + s.modifier.toInt),
      err := false, ecode := 0 } :=
  exec_eq_execWith ▸ execWith_sample_of_ready hardware hvalid hcount hsides

theorem exec_sample_of_not_ready
    (h : s.dvalid = false ∨ s.count.toInt < 1 ∨ s.sides.toInt < 1) :
    exec .sample s = .next { s with err := true, ecode := 5 } := by
  have hready : ¬ s.diceReady = true := by
    rw [diceReady_iff]
    rintro ⟨hvalid, hcount, hsides⟩
    rcases h with h | h | h
    · exact absurd (hvalid.symm.trans h) (by decide)
    · omega
    · omega
  rw [exec_eq_effect, effect_sample, if_neg hready, setError_dice_eq]

theorem exec_dmin_of_valid (h : s.dvalid = true) : exec .dmin s = .next { s with
    res := BitVec.ofInt 64 (s.count.toInt + s.modifier.toInt), err := false, ecode := 0 } := by
  rw [exec_eq_effect, effect_dmin, if_pos h, setRes_clearError_eq, ← ofInt_add_modifier,
    BitVec.signExtend]

theorem exec_dmin_of_invalid (h : s.dvalid = false) :
    exec .dmin s = .next { s with err := true, ecode := 5 } := by
  rw [exec_eq_effect, effect_dmin, if_neg (Bool.eq_false_iff.1 h), setError_dice_eq]

theorem exec_dmax_of_valid (h : s.dvalid = true) : exec .dmax s = .next { s with
    res := BitVec.ofInt 64 (s.count.toInt * s.sides.toInt + s.modifier.toInt),
    err := false, ecode := 0 } := by
  rw [exec_eq_effect, effect_dmax, if_pos h, setRes_clearError_eq, ← ofInt_add_modifier,
    BitVec.ofInt_mul, BitVec.signExtend, BitVec.signExtend]

theorem exec_dmax_of_invalid (h : s.dvalid = false) :
    exec .dmax s = .next { s with err := true, ecode := 5 } := by
  rw [exec_eq_effect, effect_dmax, if_neg (Bool.eq_false_iff.1 h), setError_dice_eq]

/-- Settles O28: at this hardware's parameters the draw is the default of R202. -/
theorem sampleSumsOneDrawPerTransition : Obligations.SampleSumsOneDrawPerTransition := by
  unfold Obligations.SampleSumsOneDrawPerTransition
  exact ⟨decode_eq_ok_iff_encode.2 rfl, fun P _ => execWith_sample_of_ready P,
    fun _ => exec_sample_of_ready, fun _ => exec_sample_of_not_ready⟩

theorem toInt_dmin (count m : BitVec 32) :
    (BitVec.ofInt 64 (count.toInt + m.toInt)).toInt = count.toInt + m.toInt :=
  toInt_ofInt_add_modifier ((natAbs_toInt_le count).trans (by decide)) m

theorem toInt_dmax (count sides m : BitVec 32) :
    (BitVec.ofInt 64 (count.toInt * sides.toInt + m.toInt)).toInt =
      count.toInt * sides.toInt + m.toInt :=
  toInt_ofInt_add_modifier (natAbs_toInt_mul_le count sides) m

/-- Settles O32: the sum of two 32-bit integers does not wrap. -/
theorem dminIsCountPlusModifier : Obligations.DminIsCountPlusModifier := by
  unfold Obligations.DminIsCountPlusModifier
  exact ⟨decode_eq_ok_iff_encode.2 rfl, fun _ h => ⟨_, exec_dmin_of_valid h, toInt_dmin _ _⟩,
    fun _ => exec_dmin_of_invalid⟩

/-- Settles O33: nor does the product of two of them plus a third. -/
theorem dmaxIsCountTimesSidesPlusModifier : Obligations.DmaxIsCountTimesSidesPlusModifier := by
  unfold Obligations.DmaxIsCountTimesSidesPlusModifier
  exact ⟨decode_eq_ok_iff_encode.2 rfl, fun _ h => ⟨_, exec_dmax_of_valid h, toInt_dmax _ _ _⟩,
    fun _ => exec_dmax_of_invalid⟩

/-- Settles O31: the default draw meets its obligation, and the three results are words of integers. -/
theorem sampleLiesBetweenDminAndDmax : Obligations.SampleLiesBetweenDminAndDmax := by
  unfold Obligations.SampleLiesBetweenDminAndDmax
  intro s hvalid hcount hsides
  have hdraw := draw_ok (wordWidth s.engine.variant)
  obtain ⟨hlo, hhi⟩ := rollSum_bounds_toInt (K := constTable) hdraw hcount hsides
  refine ⟨_, _, _, exec_sample_of_ready hvalid hcount hsides, exec_dmin_of_valid hvalid,
    exec_dmax_of_valid hvalid, ?_, ?_, fun hzero => ?_⟩
  · rw [toInt_dmin, toInt_rollSum_add_modifier hdraw hcount hsides]
    omega
  · rw [toInt_dmax, toInt_rollSum_add_modifier hdraw hcount hsides]
    omega
  · obtain ⟨hc, -⟩ := toNat_of_pos hcount
    have hzero' : s.engine.isZero = true := hzero
    simp only [rollSum_draw_of_isZero hzero', hc]

end Sys2Proof.Machine
end

section
/-! O24 and O25. The parser against the grammar: the scan ends in one of four ways, each with its answer, and
the optional group of the grammar is the one that the scan finds (spec/43_dice_sampler.md R181, R182, R186 to
R189; decision D19). -/

namespace Sys2Proof.Machine

variable {e ws run rest tail : List Byte} {c d m : Nat} {neg : Bool} {g : Option (Bool × Nat)}

/-! ### One stretch of the scan -/

theorem dropWhile_isSpace_append (hws : Spaces ws) (hrest : StopsAt isSpace rest) :
    (ws ++ rest).dropWhile isSpace = rest :=
  (scan_of_split ((spaces_iff ws).1 hws) hrest).2

theorem takeWhile_isDigit_append (hrun : Literal run) (hrest : NoDigitFirst rest) :
    (run ++ rest).takeWhile isDigit = run :=
  (scan_of_split ((literal_iff run).1 hrun).2 ((noDigitFirst_iff rest).1 hrest)).1

theorem dropWhile_isDigit_append (hrun : Literal run) (hrest : NoDigitFirst rest) :
    (run ++ rest).dropWhile isDigit = rest :=
  (scan_of_split ((literal_iff run).1 hrun).2 ((noDigitFirst_iff rest).1 hrest)).2

theorem spaces_takeWhile (e : List Byte) : Spaces (e.takeWhile isSpace) :=
  (spaces_iff _).2 (split_of_scan isSpace e).2.1

theorem stopsAt_dropWhile (p : Byte → Bool) (e : List Byte) : StopsAt p (e.dropWhile p) :=
  (split_of_scan p e).2.2

theorem noDigitFirst_dropWhile (e : List Byte) : NoDigitFirst (e.dropWhile isDigit) :=
  (noDigitFirst_iff _).2 (stopsAt_dropWhile isDigit e)

theorem Literal.isEmpty_eq (h : Literal run) : run.isEmpty = false :=
  List.isEmpty_eq_false_iff.2 h.1

/-- The scan finds no literal exactly where no digit stands. -/
theorem isEmpty_takeWhile_isDigit_iff : (e.takeWhile isDigit).isEmpty = true ↔ NoDigitFirst e := by
  constructor
  · intro h
    have hsplit := List.takeWhile_append_dropWhile (p := isDigit) (l := e)
    rw [List.isEmpty_iff.1 h, List.nil_append] at hsplit
    exact hsplit ▸ noDigitFirst_dropWhile e
  · intro h
    exact List.isEmpty_iff.2 (scan_of_split (run := []) (by simp) ((noDigitFirst_iff e).1 h)).1

theorem noDigitFirst_sep (rest : List Byte) : NoDigitFirst (0x64#8 :: rest) := by
  rw [noDigitFirst_iff]
  rintro b r ⟨⟩
  exact isDigit_sep

theorem stopsAt_isSpace_iff : StopsAt isSpace rest ↔ ∀ b r, rest = b :: r →
    b ≠ 0x20#8 ∧ b ≠ 0x09#8 ∧ b ≠ 0x0A#8 ∧ b ≠ 0x0B#8 ∧ b ≠ 0x0C#8 ∧ b ≠ 0x0D#8 := by
  simp only [StopsAt, Bool.eq_false_iff, ne_eq, isSpace_iff, SpaceByte, not_or]

theorem stopsAt_isSep_iff : StopsAt isSep rest ↔ ∀ b r, rest = b :: r → b ≠ 0x64#8 := by
  simp only [StopsAt, Bool.eq_false_iff, ne_eq, isSep_iff]

/-! ### The optional group -/

theorem modifierGroup_of_signedGroup (h : SignedGroup tail neg m) :
    modifierGroup tail = some (neg, m) := by
  obtain ⟨w₁, sign, w₂, run, rest, rfl, hw₁, hclass, hw₂, hrun, hrest, rfl⟩ := h
  have hsign : isSign sign = true := (isSign_iff sign).2 (hclass.imp And.left And.left)
  have hstop : StopsAt isSpace (sign :: (w₂ ++ (run ++ rest))) := by
    rintro b r ⟨⟩
    exact isSpace_of_isSign hsign
  have hneg : (sign == 0x2D#8) = neg := by
    rcases hclass with ⟨rfl, rfl⟩ | ⟨rfl, rfl⟩ <;> rfl
  simp [modifierGroup, dropWhile_isSpace_append hw₁ hstop, hsign, hneg,
    dropWhile_isSpace_append hw₂ hrun.stopsAtSpace, takeWhile_isDigit_append hrun hrest,
    hrun.1, decimal_eq_placeValue]

theorem signedGroup_of_modifierGroup (h : modifierGroup tail = some (neg, m)) :
    SignedGroup tail neg m := by
  unfold modifierGroup at h
  split at h
  case h_1 => cases h
  case h_2 sign after hdrop =>
    split at h
    case isFalse => cases h
    case isTrue hsign =>
      dsimp only at h
      split at h
      case isTrue => cases h
      case isFalse hne =>
        cases h
        refine ⟨tail.takeWhile isSpace, sign, after.takeWhile isSpace, _,
          (after.dropWhile isSpace).dropWhile isDigit, ?_, spaces_takeWhile _, ?_,
          spaces_takeWhile _, literal_takeWhile (Bool.eq_false_iff.2 hne),
          noDigitFirst_dropWhile _, decimal_eq_placeValue _⟩
        · rw [List.takeWhile_append_dropWhile, List.takeWhile_append_dropWhile, ← hdrop,
            List.takeWhile_append_dropWhile]
        · rcases (isSign_iff sign).1 hsign with rfl | rfl
          · exact .inl ⟨rfl, rfl⟩
          · exact .inr ⟨rfl, rfl⟩

/-- The scan finds the group exactly when the grammar has one, with its sign and literal (R182, R188). -/
theorem signedGroup_iff : SignedGroup tail neg m ↔ modifierGroup tail = some (neg, m) :=
  ⟨modifierGroup_of_signedGroup, signedGroup_of_modifierGroup⟩

/-- The group of a match is the scan's: it is absent only where it cannot take part (R188). -/
theorem groupMatch_iff : GroupMatch tail g ↔ g = modifierGroup tail := by
  rcases g with _ | ⟨neg, m⟩
  · simp only [GroupMatch, signedGroup_iff, eq_comm (a := none), Option.eq_none_iff_forall_ne_some,
      Prod.forall, ne_eq]
  · simp only [GroupMatch, signedGroup_iff, eq_comm]

/-! ### The four ways a scan ends -/

/-- No digit follows the leading white space (R189). -/
def CountMissing (e : List Byte) : Prop :=
  ∃ ws rest, e = ws ++ rest ∧ Spaces ws ∧ NoDigitFirst rest ∧
    ∀ b r, rest = b :: r → b ≠ 0x20#8 ∧ b ≠ 0x09#8 ∧ b ≠ 0x0A#8 ∧ b ≠ 0x0B#8 ∧ b ≠ 0x0C#8 ∧
      b ≠ 0x0D#8

/-- No `d` follows the first literal (R189). -/
def SepMissing (e : List Byte) : Prop :=
  ∃ ws run rest, e = ws ++ (run ++ rest) ∧ Spaces ws ∧ Literal run ∧ NoDigitFirst rest ∧
    ∀ b r, rest = b :: r → b ≠ 0x64#8

/-- No digit follows the `d` (R189). -/
def SidesMissing (e : List Byte) : Prop :=
  ∃ ws run rest, e = ws ++ (run ++ 0x64#8 :: rest) ∧ Spaces ws ∧ Literal run ∧ NoDigitFirst rest

/-- A captured literal is out of range (R186). -/
abbrev TooLarge (c d : Nat) (g : Option (Bool × Nat)) : Prop :=
  2147483647 < c ∨ 2147483647 < d ∨ 2147483647 < groupLiteral g

/-- A maximal run of digits stands first, or no digit does. -/
theorem literal_cases (e : List Byte) :
    NoDigitFirst e ∨ ∃ run rest, e = run ++ rest ∧ Literal run ∧ NoDigitFirst rest := by
  by_cases h : (e.takeWhile isDigit).isEmpty = true
  · exact .inl (isEmpty_takeWhile_isDigit_iff.1 h)
  · exact .inr ⟨_, _, (split_of_scan isDigit e).1, literal_takeWhile (Bool.eq_false_iff.2 h),
      noDigitFirst_dropWhile e⟩

/-- A string has one of the three failures of the scan, or the head of the grammar matches at its start. -/
theorem scan_cases (e : List Byte) :
    CountMissing e ∨ SepMissing e ∨ SidesMissing e ∨ ∃ c d tail, HeadMatch e c d tail := by
  obtain ⟨ws, e₁, rfl, hws, hstop⟩ : ∃ ws e₁, e = ws ++ e₁ ∧ Spaces ws ∧ StopsAt isSpace e₁ :=
    ⟨_, _, (split_of_scan isSpace e).1, spaces_takeWhile e, stopsAt_dropWhile isSpace e⟩
  rcases literal_cases e₁ with hnone | ⟨run₁, e₂, rfl, hrun₁, hmax₁⟩
  · exact .inl ⟨ws, e₁, rfl, hws, hnone, stopsAt_isSpace_iff.1 hstop⟩
  by_cases hsep : StopsAt isSep e₂
  · exact .inr (.inl ⟨ws, run₁, e₂, rfl, hws, hrun₁, hmax₁, stopsAt_isSep_iff.1 hsep⟩)
  obtain ⟨e₃, rfl⟩ : ∃ e₃, e₂ = 0x64#8 :: e₃ := by
    simpa [stopsAt_isSep_iff] using hsep
  rcases literal_cases e₃ with hnone | ⟨run₂, tail, rfl, hrun₂, hmax₂⟩
  · exact .inr (.inr (.inl ⟨ws, run₁, e₃, rfl, hws, hrun₁, hnone⟩))
  · exact .inr (.inr (.inr ⟨_, _, tail, ws, run₁, run₂, rfl, hws, hrun₁, hrun₂, hmax₂, rfl, rfl⟩))

theorem parseFn_of_countMissing (h : CountMissing e) : parseFn e = .error .count := by
  obtain ⟨ws, rest, rfl, hws, hnone, hstop⟩ := h
  simp only [parseFn, dropWhile_isSpace_append hws (stopsAt_isSpace_iff.2 hstop),
    isEmpty_takeWhile_isDigit_iff.2 hnone, if_true]

theorem parseFn_of_sepMissing (h : SepMissing e) : parseFn e = .error .noSep := by
  obtain ⟨ws, run, rest, rfl, hws, hrun, hmax, hsep⟩ := h
  simp only [parseFn, dropWhile_isSpace_append hws hrun.stopsAtSpace,
    takeWhile_isDigit_append hrun hmax, dropWhile_isDigit_append hrun hmax, hrun.isEmpty_eq]
  cases rest with
  | nil => rfl
  | cons b r => simp [stopsAt_isSep_iff.2 hsep b r rfl]

/-- After a literal and a `d` the scan looks for the second literal (R187). -/
theorem parseFn_of_sep (hws : Spaces ws) (hrun : Literal run) :
    parseFn (ws ++ (run ++ 0x64#8 :: rest)) =
      if (rest.takeWhile isDigit).isEmpty then .error .sides
      else rangeCheck (placeValue run) (placeValue (rest.takeWhile isDigit))
        (modifierGroup (rest.dropWhile isDigit)) := by
  have hmax := noDigitFirst_sep rest
  simp only [parseFn, dropWhile_isSpace_append hws hrun.stopsAtSpace,
    takeWhile_isDigit_append hrun hmax, dropWhile_isDigit_append hrun hmax, hrun.isEmpty_eq,
    (isSep_iff _).2 rfl, decimal_eq_placeValue, if_true, Bool.false_eq_true, if_false]

theorem parseFn_of_sidesMissing (h : SidesMissing e) : parseFn e = .error .sides := by
  obtain ⟨ws, run, rest, rfl, hws, hrun, hnone⟩ := h
  rw [parseFn_of_sep hws hrun, if_pos (isEmpty_takeWhile_isDigit_iff.2 hnone)]

/-- Where the head matches, only the literals' size is left to check (R187, R189). -/
theorem parseFn_of_headMatch (h : HeadMatch e c d tail) : parseFn e =
    if TooLarge c d (modifierGroup tail) then .error .range
    else .ok ⟨c, d, groupValue (modifierGroup tail)⟩ := by
  obtain ⟨ws, run₁, run₂, rfl, hws, hrun₁, hrun₂, hmax, rfl, rfl⟩ := h
  rw [parseFn_of_sep hws hrun₁, takeWhile_isDigit_append hrun₂ hmax,
    dropWhile_isDigit_append hrun₂ hmax, if_neg (by simp [hrun₂.isEmpty_eq]), rangeCheck_eq]
  rfl

/-! ### The answers read backwards -/

/-- What each code says of the string (R189). -/
theorem parseFn_error_cases {err : ErrCode} (h : parseFn e = .error err) :
    err = .count ∧ CountMissing e ∨ err = .noSep ∧ SepMissing e ∨ err = .sides ∧ SidesMissing e ∨
      err = .range ∧ ∃ c d tail, HeadMatch e c d tail ∧ TooLarge c d (modifierGroup tail) := by
  rcases scan_cases e with hfail | hfail | hfail | ⟨c, d, tail, hmatch⟩
  · cases (parseFn_of_countMissing hfail).symm.trans h
    exact .inl ⟨rfl, hfail⟩
  · cases (parseFn_of_sepMissing hfail).symm.trans h
    exact .inr (.inl ⟨rfl, hfail⟩)
  · cases (parseFn_of_sidesMissing hfail).symm.trans h
    exact .inr (.inr (.inl ⟨rfl, hfail⟩))
  · rw [parseFn_of_headMatch hmatch] at h
    split at h
    · cases h
      exact .inr (.inr (.inr ⟨rfl, c, d, tail, hmatch, ‹_›⟩))
    · cases h

/-- What an accepted string is (R187, R188). -/
theorem headMatch_of_parseFn_eq_ok {r : DiceExpr} (h : parseFn e = .ok r) :
    ∃ tail, HeadMatch e r.count r.sides tail ∧ r.modifier = groupValue (modifierGroup tail) ∧
      ¬ TooLarge r.count r.sides (modifierGroup tail) := by
  rcases scan_cases e with hfail | hfail | hfail | ⟨c, d, tail, hmatch⟩
  · cases (parseFn_of_countMissing hfail).symm.trans h
  · cases (parseFn_of_sepMissing hfail).symm.trans h
  · cases (parseFn_of_sidesMissing hfail).symm.trans h
  · rw [parseFn_of_headMatch hmatch] at h
    split at h
    · cases h
    · cases h
      exact ⟨tail, hmatch, rfl, ‹_›⟩

theorem not_tooLarge_iff : ¬ TooLarge c d g ↔
    c ≤ 2147483647 ∧ d ≤ 2147483647 ∧ groupLiteral g ≤ 2147483647 := by
  simp only [TooLarge, not_or, Nat.not_lt]

theorem digitVal_of_isDigit {b : Byte} (h : isDigit b = true) :
    digitVal b + 0x30 = b.toNat ∧ digitVal b ≤ 9 := by
  obtain ⟨hlo, hhi⟩ := (isDigit_iff b).1 h
  rw [digitVal]
  omega

theorem parseFn_eq_ok_iff {k : Int} : parseFn e = .ok ⟨c, d, k⟩ ↔
    ∃ tail g, HeadMatch e c d tail ∧ GroupMatch tail g ∧ k = groupValue g ∧
      c ≤ 2147483647 ∧ d ≤ 2147483647 ∧ groupLiteral g ≤ 2147483647 := by
  simp only [← not_tooLarge_iff]
  constructor
  · intro h
    obtain ⟨tail, hmatch, hk, hsmall⟩ := headMatch_of_parseFn_eq_ok h
    exact ⟨tail, _, hmatch, groupMatch_iff.2 rfl, hk, hsmall⟩
  · rintro ⟨tail, g, hmatch, hgroup, rfl, hsmall⟩
    obtain rfl := groupMatch_iff.1 hgroup
    rw [parseFn_of_headMatch hmatch, if_neg hsmall]

/-- Settles O24: the classes are those of Laws/Parser.lean, the equivalence is `parseFn_eq_ok_iff`. -/
theorem parserMatchesTheGrammar : Obligations.ParserMatchesTheGrammar := by
  unfold Obligations.ParserMatchesTheGrammar
  exact ⟨isSpace_iff, isDigit_iff, isSep_iff, isSign_iff, fun _ => digitVal_of_isDigit,
    fun _ _ _ _ => parseFn_eq_ok_iff⟩

theorem parseFn_eq_count_iff : parseFn e = .error .count ↔ CountMissing e :=
  ⟨fun h => by simpa using parseFn_error_cases h, parseFn_of_countMissing⟩

theorem parseFn_eq_noSep_iff : parseFn e = .error .noSep ↔ SepMissing e :=
  ⟨fun h => by simpa using parseFn_error_cases h, parseFn_of_sepMissing⟩

theorem parseFn_eq_sides_iff : parseFn e = .error .sides ↔ SidesMissing e :=
  ⟨fun h => by simpa using parseFn_error_cases h, parseFn_of_sidesMissing⟩

theorem parseFn_eq_range_iff : parseFn e = .error .range ↔
    ∃ c d tail g, HeadMatch e c d tail ∧ GroupMatch tail g ∧ TooLarge c d g := by
  constructor
  · intro h
    obtain ⟨c, d, tail, hmatch, hlarge⟩ :
        ∃ c d tail, HeadMatch e c d tail ∧ TooLarge c d (modifierGroup tail) := by
      simpa using parseFn_error_cases h
    exact ⟨c, d, tail, _, hmatch, groupMatch_iff.2 rfl, hlarge⟩
  · rintro ⟨c, d, tail, g, hmatch, hgroup, hlarge⟩
    obtain rfl := groupMatch_iff.1 hgroup
    rw [parseFn_of_headMatch hmatch, if_pos hlarge]

theorem code_of_parseFn_eq_error {err : ErrCode} (h : parseFn e = .error err) :
    err = .count ∨ err = .noSep ∨ err = .sides ∨ err = .range :=
  (parseFn_error_cases h).imp And.left (.imp And.left (.imp And.left And.left))

/-- Settles O25: each code is the answer to its own failure (`parseFn_of_…`) and to no other
(`parseFn_error_cases`). -/
theorem parserReportsTheFirstFailure : Obligations.ParserReportsTheFirstFailure := by
  unfold Obligations.ParserReportsTheFirstFailure
  exact ⟨fun _ => parseFn_eq_count_iff, fun _ => parseFn_eq_noSep_iff,
    fun _ => parseFn_eq_sides_iff, fun _ => parseFn_eq_range_iff,
    fun _ => ⟨fun h => absurd (code_of_parseFn_eq_error h) (by decide),
      fun h => absurd (code_of_parseFn_eq_error h) (by decide),
      fun h => absurd (code_of_parseFn_eq_error h) (by decide)⟩⟩

end Sys2Proof.Machine
end

section
/-! O39, O49 and O50. How a write to `CMD` ends: without error, or with a code, under that code's condition and
in a whole next state; and a step without a host event (spec/60_exceptions.md R220, R221, R228, R231;
spec/70_reset_and_hazards.md R252). -/

namespace Sys2Proof.Machine

variable (P : Params) (s : State)

/-- Settles O39. -/
theorem nothingHappensWithoutTheHost : Obligations.NothingHappensWithoutTheHost := by
  unfold Obligations.NothingHappensWithoutTheHost
  exact fun _ => step_of_nil

/-- How a write to `CMD` ends from `s`, by what the value decodes to: the error list of R228, each code with
its condition and the state it leaves (R221). `NOP` writes no report and has no constructor. -/
inductive Ending : Except Illegal Instr → State → Prop
  /-- The command's rule ends without an error. -/
  | clean {i : Instr} {t : State} (herr : t.err = false) (hecode : t.ecode = 0) : Ending (.ok i) t
  /-- `E_ILL` (R82). -/
  | illegal (e : Illegal) : Ending (.error e) (s.setError .ill)
  /-- The parser's code; the one error that also clears the triple (R191). -/
  | notParsed {c : ErrCode} (hparse : parseFn s.source = .error c) :
      Ending (.ok .parse) ((s.setTriple 0 0 0 false).setError c)
  /-- `E_DICE`: `SAMPLE` asks more of the triple than the other two (R205, R210). -/
  | notReady {i : Instr} (hi : i = .sample ∨ i = .dmin ∨ i = .dmax)
      (hdice : s.dvalid = false ∨ (i = .sample ∧ (s.count.toInt < 1 ∨ s.sides.toInt < 1))) :
      Ending (.ok i) (s.setError .dice)
  /-- `E_FULL` (R184). -/
  | full (b : Byte) (hfull : s.exlen.toNat = P.exprMax) :
      Ending (.ok (.putc b)) (s.setError .full)

variable {P s} {t : State} {i : Instr}

theorem not_diceReady_iff :
    ¬ s.diceReady = true ↔ s.dvalid = false ∨ s.count.toInt < 1 ∨ s.sides.toInt < 1 := by
  rw [diceReady_iff, not_and_or, not_and_or, Bool.not_eq_true, Int.not_le, Int.not_le]

/-- `DMIN` and `DMAX` check `DVALID` only (R210). -/
theorem ending_of_dvalid (hi : i = .dmin ∨ i = .dmax) (herr : t.err = false) (hecode : t.ecode = 0) :
    Ending P s (.ok i) (if s.dvalid then t else s.setError .dice) := by
  split
  · exact .clean herr hecode
  · exact .notReady (.inr hi) (.inl (Bool.eq_false_iff.2 ‹_›))

/-- Five commands can fail, each under a condition of its own; the others always end clean. -/
theorem effect_ending (hnop : i ≠ .nop) : Ending P s (.ok i) (effect P i s) := by
  cases i with
  | nop => exact absurd rfl hnop
  | putc b =>
    rw [effect_putc]
    split
    · exact .full b ‹_›
    · exact .clean rfl rfl
  | parse =>
    rw [effect_parse]
    cases hparse : parseFn s.source with
    | ok d => exact .clean rfl rfl
    | error c => exact .notParsed hparse
  | sample =>
    rw [effect_sample]
    split
    next => exact .clean rfl rfl
    next hready =>
      exact .notReady (.inl rfl) ((not_diceReady_iff.1 hready).imp_right fun h => ⟨rfl, h⟩)
  | dmin => exact effect_dmin P s ▸ ending_of_dvalid (.inl rfl) rfl rfl
  | dmax => exact effect_dmax P s ▸ ending_of_dvalid (.inr rfl) rfl rfl
  | _ => exact .clean rfl rfl

theorem runCommand_ending {v : Reg} (hnop : decode v ≠ .ok .nop) (s : State) :
    ∃ t, runCommand exec v s = .next t ∧ Ending hardware s (decode v) t := by
  rw [exec_eq_execWith]
  cases hdecode : decode v with
  | ok i =>
    have hi : i ≠ .nop := fun h => hnop (h ▸ hdecode)
    exact ⟨_, runCommand_of_ok hardware hdecode s, effect_ending hi⟩
  | error e => exact ⟨_, runCommand_of_error _ hdecode s, .illegal e⟩

/-- The parser's codes as numbers (R33, R189). -/
theorem code_range_of_parseFn_eq_error {e : List Byte} {c : ErrCode} (h : parseFn e = .error c) :
    c.code = 1 ∨ c.code = 2 ∨ c.code = 3 ∨ c.code = 4 := by
  rcases code_of_parseFn_eq_error h with rfl | rfl | rfl | rfl <;> decide

/-- Settles O49: each ending is one line of the list. -/
theorem errorsAreTheListedOnes : Obligations.ErrorsAreTheListedOnes := by
  unfold Obligations.ErrorsAreTheListedOnes
  intro v s hnop
  obtain ⟨t, hrun, hending⟩ := runCommand_ending hnop s
  refine ⟨t, hrun, ?_⟩
  generalize decode v = d at hending ⊢
  cases hending with
  | clean herr hecode => exact .inl ⟨herr, hecode⟩
  | illegal e => exact .inr ⟨rfl, .inl ⟨⟨e, rfl⟩, rfl⟩⟩
  | notParsed hparse =>
    exact .inr ⟨rfl, .inr (.inl ⟨rfl, code_range_of_parseFn_eq_error hparse⟩)⟩
  | notReady hi hdice =>
    simp only [Except.ok.injEq]
    exact .inr ⟨rfl, .inr (.inr (.inl ⟨hi, rfl, hdice⟩))⟩
  | full b hfull => exact .inr ⟨rfl, .inr (.inr (.inr ⟨⟨b, rfl⟩, rfl, hfull⟩))⟩

/-- Settles O50: every ending with an error is a `setError`, of the cleared triple only for `PARSE`. -/
theorem failedCommandsChangeOnlyTheReport : Obligations.FailedCommandsChangeOnlyTheReport := by
  unfold Obligations.FailedCommandsChangeOnlyTheReport
  intro v s t hnop hrun herr
  obtain ⟨t', hrun', hending⟩ := runCommand_ending hnop s
  cases hrun'.symm.trans hrun
  generalize decode v = d at hending ⊢
  cases hending with
  | clean hclean => cases hclean.symm.trans herr
  | illegal e => exact ⟨fun _ => rfl, nofun⟩
  | notParsed => exact ⟨fun hne => absurd rfl hne, fun _ => rfl⟩
  | notReady hi => exact ⟨fun _ => rfl, by rcases hi with rfl | rfl | rfl <;> nofun⟩
  | full b => exact ⟨fun _ => rfl, nofun⟩

end Sys2Proof.Machine
end

section
/-! O45. The platform's reset as the next host event: the strap sampled there selects the variant, or the
event is refused (spec/70_reset_and_hazards.md R250, R251; spec/93_implementation_defined.md U9). -/

namespace Sys2Proof.Machine

variable {s : State} {vsel : BitVec 4} {rest : List HostEvent}

/-- A legal strap: every field but the queue and the record is that of the reset state. -/
theorem step_of_reset {v : Variant} (hhost : s.host = .reset vsel :: rest)
    (hv : strapVariant vsel = some v) :
    step s = .next { State.resetFor v s.warmup with host := rest, reads := s.reads } := by
  rw [step_of_cons hhost, perform, hv]
  rfl

theorem step_of_reset_refused (hhost : s.host = .reset vsel :: rest)
    (hnone : strapVariant vsel = none) : step s = .refused (.illegalStrap vsel) := by
  rw [step_of_cons hhost, perform, hnone]

/-- Settles O45: a strap up to 10 is the code of the variant it selects, a larger one selects none. -/
theorem platformResetLatchesTheStrap : Obligations.PlatformResetLatchesTheStrap := by
  unfold Obligations.PlatformResetLatchesTheStrap
  intro s vsel rest hhost
  constructor
  · intro hle
    obtain ⟨v, hcode, hv⟩ := strapVariant_of_ok (decide_eq_true hle)
    exact ⟨v, hcode, step_of_reset hhost hv⟩
  · intro hge
    have hstrap : strapOk vsel = false := decide_eq_false (Nat.not_le.2 hge)
    exact step_of_reset_refused hhost (strapVariant_of_not_ok hstrap)

end Sys2Proof.Machine
end
